-- ==== Sys2Proof/Syntax.lean ====
section
/-! DEFINITION. The seven commands of the block (30_encoding.md R67), one constructor per row of
spec/opcode_table.json. The 32-bit operands are not part of the command: they stand in `ARG[0]` to
`ARG[3]` when the command is launched (R66). -/

namespace Sys2Proof

/-- A command as its word encodes it. `ch` is `zext_32(CH)`, 0 to 15 (R66); a flag is `F`. -/
inductive Instr where
  /-- `PWM.DERIVE_TIN`, OP 0x1 (40_pwm.md R90) -/
  | pwmDeriveTin (ch : Nat)
  /-- `PWM.SET_CONFIG`, OP 0x2 (40_pwm.md R91) -/
  | pwmSetConfig (ch : Nat)
  /-- `PWM.SET_ENABLE`, OP 0x3 (40_pwm.md R98) -/
  | pwmSetEnable (ch : Nat) (enable : Bool)
  /-- `MMC.GET_BASE_CLOCK`, OP 0x8 (41_mmc.md R122) -/
  | mmcGetBaseClock
  /-- `MMC.SET_CLOCK`, OP 0x9 (41_mmc.md R123) -/
  | mmcSetClock
  /-- `MMC.PROGRAM_DELAY`, OP 0xA (41_mmc.md R124) -/
  | mmcProgramDelay
  /-- `MMC.SELECT_CLOCK_MODE`, OP 0xB (41_mmc.md R125) -/
  | mmcSelectClockMode (boosted : Bool)
  deriving DecidableEq, Repr

end Sys2Proof
end

