-- ==== Sys2Proof/WellFormed.lean ====
section
/-! DEFINITION. Which commands a command word can encode: the field `CH` has four bits, so a channel
number is 0 to 15 (30_encoding.md R65, R66). Numbers 5 to 15 are well formed and are rejected when the
command executes (R66). -/

namespace Sys2Proof

/-- The check: the channel number fits the field `CH`. -/
def Instr.wellFormed : Instr → Bool
  | .pwmDeriveTin ch => ch < 16
  | .pwmSetConfig ch => ch < 16
  | .pwmSetEnable ch _ => ch < 16
  | .mmcGetBaseClock => true
  | .mmcSetClock => true
  | .mmcProgramDelay => true
  | .mmcSelectClockMode _ => true

/-- A command that a command word can encode. -/
abbrev Instr.WellFormed (i : Instr) : Prop := i.wellFormed = true

end Sys2Proof
end

