-- ==== Sys2Proof/Word.lean ====
section
/-! DEFINITION. The word types. Every register, operand and intermediate value of the block is a 32-bit
unsigned word (00_scope.md R7 `WORD`, R9, R10). `+ - *` of `BitVec 32` wrap modulo 2^32, `/` truncates,
`<` and `≤` compare unsigned, as R10 says. -/

namespace Sys2Proof

/-- A 32-bit unsigned value (R7 `WORD`). -/
abbrev Word := BitVec 32

/-- One byte of a register (20_memory.md R55). -/
abbrev Byte := BitVec 8

end Sys2Proof
end

