-- ==== Sys2Proof/Decode.lean ====
section
/-! DEFINITION. The decoder of the command word (30_encoding.md R65 to R71), total on every 32-bit word
and rejecting by name; the match and mask table of R68; the encoder, from R65 and R67. -/

namespace Sys2Proof

/-- Why a word is illegal: the kinds of R69. All have the same effect. -/
inductive IllegalWord where
  /-- a bit of `RSV` [31:9] is set -/
  | reservedBitSet
  /-- `OP` is one of the nine codes that R69 lists -/
  | unassignedOp
  /-- `F` = 1 for an operation whose `F` must be 0 -/
  | flagMustBeZero
  /-- `CH` ≠ 0 for an MMC operation -/
  | channelMustBeZero
  deriving DecidableEq, Repr

/-- The field `OP` [3:0] (R65). -/
def opField (w : Word) : Nat := (w.extractLsb' 0 4).toNat

/-- The field `CH` [7:4] (R65), zero-extended (R66). -/
def chField (w : Word) : Nat := (w.extractLsb' 4 4).toNat

/-- The field `F` [8] (R65). -/
def flagField (w : Word) : Bool := w.getLsbD 8

/-- The field `RSV` [31:9] (R65). -/
def rsvField (w : Word) : Nat := (w.extractLsb' 9 23).toNat

/-- A PWM operation whose `F` must be 0 (R67). -/
def requireFlagClear (f : Bool) (i : Instr) : Except IllegalWord Instr :=
  if f then .error .flagMustBeZero else .ok i

/-- An MMC operation: `CH` must be 0 (R67). -/
def requireChannelZero (ch : Nat) (d : Except IllegalWord Instr) : Except IllegalWord Instr :=
  if ch = 0 then d else .error .channelMustBeZero

/-- `Decode(w)` of R71. -/
def decode (w : Word) : Except IllegalWord Instr :=
  if rsvField w ≠ 0 then .error .reservedBitSet
  else
    match opField w with
    | 0x1 => requireFlagClear (flagField w) (.pwmDeriveTin (chField w))
    | 0x2 => requireFlagClear (flagField w) (.pwmSetConfig (chField w))
    | 0x3 => .ok (.pwmSetEnable (chField w) (flagField w))
    | 0x8 => requireChannelZero (chField w) (requireFlagClear (flagField w) .mmcGetBaseClock)
    | 0x9 => requireChannelZero (chField w) (requireFlagClear (flagField w) .mmcSetClock)
    | 0xA => requireChannelZero (chField w) (requireFlagClear (flagField w) .mmcProgramDelay)
    | 0xB => requireChannelZero (chField w) (.ok (.mmcSelectClockMode (flagField w)))
    | _ => .error .unassignedOp

/-- The command word with these fields (R65); `RSV` is 0. -/
def commandWord (op ch : Nat) (f : Bool) : Word :=
  BitVec.ofNat 32 op ||| (BitVec.ofNat 32 ch <<< 4) ||| (BitVec.ofNat 32 f.toNat <<< 8)

/-- The word of a command (R65, R67). -/
def encode : Instr → Word
  | .pwmDeriveTin ch => commandWord 0x1 ch false
  | .pwmSetConfig ch => commandWord 0x2 ch false
  | .pwmSetEnable ch enable => commandWord 0x3 ch enable
  | .mmcGetBaseClock => commandWord 0x8 0 false
  | .mmcSetClock => commandWord 0x9 0 false
  | .mmcProgramDelay => commandWord 0xA 0 false
  | .mmcSelectClockMode boosted => commandWord 0xB 0 boosted

/-- A row of the table of R68. -/
structure OpcodeRow where
  value : Word
  mask  : Word
  deriving DecidableEq, Repr

/-- The row of R68 that stands for a command's operation. -/
def Instr.row : Instr → OpcodeRow
  | .pwmDeriveTin _ => ⟨0x00000001#32, 0xFFFFFF0F#32⟩
  | .pwmSetConfig _ => ⟨0x00000002#32, 0xFFFFFF0F#32⟩
  | .pwmSetEnable _ _ => ⟨0x00000003#32, 0xFFFFFE0F#32⟩
  | .mmcGetBaseClock => ⟨0x00000008#32, 0xFFFFFFFF#32⟩
  | .mmcSetClock => ⟨0x00000009#32, 0xFFFFFFFF#32⟩
  | .mmcProgramDelay => ⟨0x0000000A#32, 0xFFFFFFFF#32⟩
  | .mmcSelectClockMode _ => ⟨0x0000000B#32, 0xFFFFFEFF#32⟩

/-- The seven rows of R68. -/
def opcodeTable : List OpcodeRow :=
  [⟨0x00000001#32, 0xFFFFFF0F#32⟩, ⟨0x00000002#32, 0xFFFFFF0F#32⟩, ⟨0x00000003#32, 0xFFFFFE0F#32⟩,
   ⟨0x00000008#32, 0xFFFFFFFF#32⟩, ⟨0x00000009#32, 0xFFFFFFFF#32⟩, ⟨0x0000000A#32, 0xFFFFFFFF#32⟩,
   ⟨0x0000000B#32, 0xFFFFFEFF#32⟩]

/-- "A word selects an operation when `(w & mask) == match`" (R68). -/
abbrev OpcodeRow.Selects (row : OpcodeRow) (w : Word) : Prop := w &&& row.mask = row.value

/-- The instruction the decoder reads from a command word given as a number, bit 0 the least
significant, of which the low `nbits` bits count. There is one length, 32 bits (R65): a number that does
not fit a command word is no command. -/
def decodeTableWord (nbits w : Nat) : Option Instr :=
  if w % 2 ^ nbits < 2 ^ 32 then (decode (BitVec.ofNat 32 (w % 2 ^ nbits))).toOption else none

end Sys2Proof
end

