-- ==== Sys2Proof/Config.lean ====
section
/-! DEFINITION. What an implementation fixes: the parameters of 00_scope.md R7, as one record of plain
data that the state carries and that only a reset changes (R8, 10_state.md R42, 70_reset_and_hazards.md
R172); and the free values, which are the answers of the clock-source collaborator (10_state.md R41). -/

namespace Sys2Proof

/-- A channel that exists: `PWM_CHANNELS` (R7) is 5, channels 0 to 4. -/
abbrev Channel := Fin 5

/-- A clock handle. The spec gives it no structure (00_scope.md R15); log entry 15. -/
abbrev Handle := Nat

/-- `TIN_POLICY` (R7). -/
inductive TinPolicy where
  | fixedReadback
  | search
  deriving DecidableEq, Repr

/-- `COUNTER_VARIANT` (R7): reload = count − 1, or reload = count. -/
inductive CounterVariant where
  | fromZero
  | plain
  deriving DecidableEq, Repr

/-- `COUNTER_UNDERFLOW` (R7): what `FromZero` does when the count is 0. -/
inductive CounterUnderflow where
  | wrap
  | fault
  deriving DecidableEq, Repr

/-- `TCFG_READBACK` (R7, 10_state.md R33). -/
inductive TcfgReadback where
  | plain
  | value (v0 v1 : Word)
  deriving DecidableEq, Repr

/-- `SEARCH_RETURN` (R7, 40_pwm.md R88). -/
inductive SearchReturn where
  | divide
  | shiftByDiv
  deriving DecidableEq, Repr

/-- `CLKDLY_LAYOUT` (R7, 30_encoding.md R77 and R78). -/
inductive ClkdlyLayout where
  | positional
  | sourceLiteral
  deriving DecidableEq, Repr

/-- What a named bit of `tcon` does (10_state.md R31). -/
inductive TconRole where
  | start
  | update
  | autoReload
  deriving DecidableEq, Repr

/-- The reset values of the target registers, all OPEN in the spec (70_reset_and_hazards.md R170). -/
structure TargetResets where
  tcfg0  : Word
  tcfg1  : Word
  tcon   : Word
  tcntb  : Vector Word 5
  tcmpb  : Vector Word 5
  clksel : Word
  clkdly : Word
  deriving DecidableEq, Repr

/-- The parameters of R7. `BOOSTED` is not among them: the host passes it in a command's F bit
(10_state.md R42). -/
structure Config where
  tinPolicy          : TinPolicy
  counterVariant     : CounterVariant
  counterUnderflow   : CounterUnderflow
  tcfgReadback       : TcfgReadback
  searchReturn       : SearchReturn
  clkdlyLayout       : ClkdlyLayout
  /-- `CLKDLY_SS_LSB` -/
  clkdlySsLsb        : Nat
  portBase           : Word
  pwmBase            : Word
  mmcBase            : Word
  pwmParentClkName   : String
  mmcDevClass        : String
  mmcDevIndex        : Nat
  /-- `START_BIT(ch)` -/
  startBit           : Vector Nat 5
  /-- `UPDATE_BIT(ch)` -/
  updateBit          : Vector Nat 5
  /-- `AUTORELOAD_BIT(ch)`, channels 0 to 3 -/
  autoReloadBit      : Vector Nat 4
  /-- `TCON4_AUTORELOAD_BIT` -/
  tcon4AutoReloadBit : Nat
  /-- `PRESCALER_LSB(ch)` for ch < 2: R29 gives channels 0 and 1 one field -/
  prescalerLsbLow    : Nat
  /-- `PRESCALER_LSB(ch)` for ch ≥ 2: R29 gives channels 2 to 4 the other field -/
  prescalerLsbHigh   : Nat
  prescalerWidth     : Nat
  /-- `MUX_LSB(ch)` -/
  muxLsb             : Vector Nat 5
  resets             : TargetResets
  deriving DecidableEq, Repr

/-- The bit of `tcon` that has a role for a channel (10_state.md R31). -/
def Config.tconBit (c : Config) (r : TconRole) (ch : Channel) : Nat :=
  match r with
  | .start => c.startBit[ch.val]
  | .update => c.updateBit[ch.val]
  | .autoReload => if h : ch.val < 4 then c.autoReloadBit[ch.val] else c.tcon4AutoReloadBit

/-- Every role of every channel: the 15 named bits of R31's table. -/
def tconFields : List (TconRole × Channel) :=
  [(.start, 0), (.start, 1), (.start, 2), (.start, 3), (.start, 4),
   (.update, 0), (.update, 1), (.update, 2), (.update, 3), (.update, 4),
   (.autoReload, 0), (.autoReload, 1), (.autoReload, 2), (.autoReload, 3), (.autoReload, 4)]

/-- R31: "must keep them distinct and below 32". -/
abbrev Config.TconBitsOk (c : Config) : Prop :=
  (∀ a ∈ tconFields, c.tconBit a.1 a.2 < 32) ∧
  (∀ a ∈ tconFields, ∀ b ∈ tconFields, c.tconBit a.1 a.2 = c.tconBit b.1 b.2 → a = b)

/-- The prescaler and mux fields lie inside their 32-bit registers, and the prescaler field plus 1
cannot wrap, so that no divisor of R87 is 0. DEDUCED from R87 and R29; log entry 6. -/
abbrev Config.TcfgFieldsOk (c : Config) : Prop :=
  1 ≤ c.prescalerWidth ∧ c.prescalerWidth < 32 ∧
  c.prescalerLsbLow + c.prescalerWidth ≤ 32 ∧ c.prescalerLsbHigh + c.prescalerWidth ≤ 32 ∧
  (∀ ch : Channel, c.muxLsb[ch.val] + 4 ≤ 32)

/-- What a configuration must meet: R31 (`tcon` bits), R7 (`CLKDLY_SS_LSB` from 18 to 30), R56 (every
address is a multiple of 4) and the fields of R29 and R30. Log entry 6. -/
abbrev Config.Ok (c : Config) : Prop :=
  c.TconBitsOk ∧ c.TcfgFieldsOk ∧
  (18 ≤ c.clkdlySsLsb ∧ c.clkdlySsLsb ≤ 30) ∧
  (c.portBase.toNat % 4 = 0 ∧ c.pwmBase.toNat % 4 = 0 ∧ c.mmcBase.toNat % 4 = 0)

/-- The target registers' reset values in State.reset. PRESUMED: those of the Samsung PWM timer family
whose layout the spec's defaults follow (93_implementation_defined.md G2 to G4), unsafe; log entry 5. -/
def TargetResets.family : TargetResets where
  tcfg0  := 0x00000101#32
  tcfg1  := 0
  tcon   := 0
  tcntb  := Vector.replicate 5 0
  tcmpb  := Vector.replicate 5 0
  clksel := 0
  clkdly := 0

/-- The configuration that State.reset holds: the spec's default for each parameter that has one (R7,
R29, R30, R31), and a named value for each OPEN one. DESIGN CHOICE, unsafe for a claim about
State.reset alone; log entry 4. -/
def Config.initial : Config where
  tinPolicy          := .search
  counterVariant     := .fromZero
  counterUnderflow   := .wrap
  tcfgReadback       := .plain
  searchReturn       := .divide
  clkdlyLayout       := .positional
  clkdlySsLsb        := 24
  portBase           := 0x00000000#32
  pwmBase            := 0x00001000#32
  mmcBase            := 0x00002000#32
  pwmParentClkName   := "pwm-parent"
  mmcDevClass        := "mmc"
  mmcDevIndex        := 0
  startBit           := #v[0, 8, 12, 16, 20]
  updateBit          := #v[1, 9, 13, 17, 21]
  autoReloadBit      := #v[3, 11, 15, 19]
  tcon4AutoReloadBit := 22
  prescalerLsbLow    := 0
  prescalerLsbHigh   := 8
  prescalerWidth     := 8
  muxLsb             := #v[0, 4, 8, 12, 16]
  resets             := TargetResets.family

/-- FREE VALUE: the answer to the n-th free draw of `ClkResolve` (`none` is `NotFound`). R41: "each a
draw under no law". Log entry 2. -/
opaque Config.freeResolve : Nat → Option Handle

/-- FREE VALUE: the answer to the n-th free draw of `ClkGetRate` (R41). Log entry 2. -/
opaque Config.freeRate : Nat → Word

/-- FREE VALUE: the answer to the n-th free draw of `ClkSetRate` (R41). Log entry 2. -/
opaque Config.freeSetRate : Nat → Word

end Sys2Proof
end

