-- ==== Sys2Proof/Machine/State.lean ====
section
/-! DEFINITION. The state of the block as plain data (10_state.md R44), with the event trace (00_scope.md
R16), the host's pending accesses and the collaborator's answers beside it; the reasons a step can stop;
the state after reset (70_reset_and_hazards.md R170). -/

namespace Sys2Proof.Machine

/-- The control state (10_state.md R20). -/
inductive Control where
  | idle
  | faulted
  deriving DecidableEq, Repr

/-- A clock-handle cache (10_state.md R38, R39). -/
inductive ClkCache where
  | unresolved
  | resolved (h : Handle)
  deriving DecidableEq, Repr

/-- The target registers (10_state.md R27, R35, R36; 20_memory.md R52). -/
inductive TargetReg where
  | tcfg0
  | tcfg1
  | tcon
  | tcntb (ch : Channel)
  | tcmpb (ch : Channel)
  | clksel
  | clkdly
  deriving DecidableEq, Repr

/-- The seven registers of the command port (10_state.md R21). -/
inductive PortReg where
  | cmd
  | arg (i : Fin 4)
  | result
  | status
  deriving DecidableEq, Repr

/-- The errors that a decoded command can raise (60_exceptions.md R146, codes 1 to 4). -/
inductive ErrorKind where
  | rangeError
  | invalidError
  | clockResolutionError
  | unsupportedChannelError
  deriving DecidableEq, Repr

/-- The spec's fault reasons (60_exceptions.md R148). -/
inductive FaultReason where
  | tinRateZero
  | tinNsZero
  | counterUnderflow
  deriving DecidableEq, Repr

/-- One event of the trace, with its arguments and its answer (00_scope.md R16). The width of an access
is always 4 (R12) and is not repeated. -/
inductive Event where
  | memRead (addr : Word) (value : Word)
  | memWrite (addr : Word) (value : Word)
  | clkResolve (name : String) (answer : Option Handle)
  | clkGetRate (h : Handle) (answer : Word)
  | clkSetRate (h : Handle) (hz : Word) (answer : Word)
  | clkEnable (h : Handle)
  | clkDisable (h : Handle)
  deriving DecidableEq, Repr

/-- What the outside world can do to the block in one step: a host access of some width in bits at a byte
address (20_memory.md R50 to R56), or a reset, which samples a configuration (70_reset_and_hazards.md
R170). -/
inductive HostEvent where
  | read (addr : Word) (bits : Nat)
  | write (addr : Word) (bits : Nat) (value : Word)
  | reset (cfg : Config)
  deriving DecidableEq, Repr

/-- The collaborator's answers still to come (10_state.md R41). THE MODEL'S OWN: the listed answers are
given first, in order; after them, each answer is a free value, numbered by `draws`. Log entry 2. -/
structure Collaborator where
  resolves : List (Option Handle)
  rates    : List Word
  setRates : List Word
  draws    : Nat
  deriving DecidableEq, Repr

/-- The whole state. From `control` to `cfg`: the spec's (10_state.md R44). `trace`: the observation
(00_scope.md R16). `lastRead`, `pending`, `collab`: the model's own (log entries 1, 2, 7). -/
structure State where
  control  : Control
  /-- `ARG[0]` to `ARG[3]` -/
  arg      : Vector Word 4
  result   : Word
  status   : Word
  tcfg0    : Word
  tcfg1    : Word
  tcon     : Word
  tcntb    : Vector Word 5
  tcmpb    : Vector Word 5
  clksel   : Word
  clkdly   : Word
  pwmClk   : ClkCache
  mmcClk   : ClkCache
  cfg      : Config
  trace    : List Event
  lastRead : Option Word
  pending  : List HostEvent
  collab   : Collaborator
  deriving DecidableEq, Repr

/-- What stops the machine with a fault: nothing. A `fault F(reason)` of the spec is a NEXT state, in the
control state `Faulted` (60_exceptions.md R150), and no outcome transfers control or stops the block
(R145). So this type has no constructor; log entry 8. -/
inductive Fault where
  deriving DecidableEq, Repr

/-- Why a step has no next state. -/
inductive Refusal where
  /-- An instruction without a meaning; raised by no arm of this model. Safe. -/
  | notModelled (mnemonic : String)
  /-- A host access that is not 32 bits wide: "refused, with no step" (20_memory.md R54). Raised by a host
  access. Safe. -/
  | hostAccessWidth
  /-- A host access whose address is not a multiple of 4: "refused, with no step" (R56). Raised by a host
  access. Safe. -/
  | hostAccessMisaligned
  /-- A host access at none of the seven port registers: "refused, and the host has no step" (R53). Raised
  by a host access. Safe. -/
  | hostAccessNoRegister
  /-- A reset that samples a configuration which breaks `Config.Ok` (10_state.md R31: "must keep them
  distinct and below 32"). Raised by a reset. Safe; log entry 6. -/
  | configurationNotAllowed
  deriving DecidableEq, Repr

/-- The state right after a reset that samples `c` (R170): nothing pending, no scripted answers. -/
def State.resetWith (c : Config) : State where
  control  := .idle
  arg      := Vector.replicate 4 0
  result   := 0
  status   := 0
  tcfg0    := c.resets.tcfg0
  tcfg1    := c.resets.tcfg1
  tcon     := c.resets.tcon
  tcntb    := c.resets.tcntb
  tcmpb    := c.resets.tcmpb
  clksel   := c.resets.clksel
  clkdly   := c.resets.clkdly
  pwmClk   := .unresolved
  mmcClk   := .unresolved
  cfg      := c
  trace    := []
  lastRead := none
  pending  := []
  collab   := { resolves := [], rates := [], setRates := [], draws := 0 }

/-- The state right after reset, under `Config.initial` (log entries 4 and 5). -/
def State.reset : State := State.resetWith Config.initial

end Sys2Proof.Machine
end

