-- ==== Sys2Proof/Machine/Flags.lean ====
section
/-! DEFINITION. The block's only flag register, `STATUS` (10_state.md R24), and how the outcomes of a
command are coded in it (60_exceptions.md R146, R148). -/

namespace Sys2Proof.Machine

/-- `STATUS.CODE` [3:0] (R24). -/
def statusCode (w : Word) : BitVec 4 := w.extractLsb' 0 4

/-- `STATUS.FREASON` [7:4] (R24). -/
def statusFreason (w : Word) : BitVec 4 := w.extractLsb' 4 4

/-- `STATUS.FAULT`, bit 31 (R24). -/
def statusFault (w : Word) : Bool := w.getLsbD 31

/-- Replace `CODE`; every other bit stays (R24). -/
def setCode (w : Word) (c : BitVec 4) : Word := (w &&& ~~~0x0000000F#32) ||| c.setWidth 32

/-- Set `FAULT`, replace `FREASON` and `CODE`; every other bit stays (00_scope.md R14). -/
def setFaultBits (w : Word) (reason : BitVec 4) : Word :=
  setCode ((w &&& ~~~0x000000F0#32) ||| (reason.setWidth 32 <<< 4) ||| 0x80000000#32) 6

/-- `CODE` of success (R146). -/
def okCode : BitVec 4 := 0

/-- `CODE` of an illegal word (R146). -/
def illegalCommandCode : BitVec 4 := 5

/-- `CODE` of an error (R146). -/
def ErrorKind.code : ErrorKind → BitVec 4
  | .rangeError => 1
  | .invalidError => 2
  | .clockResolutionError => 3
  | .unsupportedChannelError => 4

/-- `FREASON` of a fault (R148). -/
def FaultReason.code : FaultReason → BitVec 4
  | .tinRateZero => 1
  | .tinNsZero => 2
  | .counterUnderflow => 3

end Sys2Proof.Machine
end

