-- ==== Sys2Proof/Machine/Operands.lean ====
section
/-! DEFINITION. Operand forms (30_encoding.md R66), the fields of the target registers (10_state.md R29 to
R31) and the words the commands write into them (30_encoding.md R76 to R79). Pure functions only. -/

namespace Sys2Proof.Machine

/-- The constant `NS` of 40_pwm.md. -/
def ns : Word := 1000000000#32

/-- The whole of `ARG[i]` at the moment of the `CMD` write (R66). -/
def State.operand (s : State) (i : Fin 4) : Word := s.arg[i.val]

/-- `CheckChannel(ch)` (40_pwm.md R85): `none` where it raises `UnsupportedChannelError`. -/
def checkChannel (ch : Nat) : Option Channel :=
  if h : ch < 5 then some ⟨ch, h⟩ else none

/-- `min(a, b)` of 00_scope.md R10. -/
def minWord (a b : Word) : Word := if a ≤ b then a else b

/-- Byte `k` of a register: bits [8k+7:8k] (20_memory.md R55). -/
def byteOf (w : Word) (k : Fin 4) : Byte := w.extractLsb' (8 * k.val) 8

/-- The field of `width` bits from bit `lsb` up, as a number (00_scope.md R9). -/
def bitField (w : Word) (lsb width : Nat) : Word := (w >>> lsb) &&& BitVec.ofNat 32 (2 ^ width - 1)

/-- `PRESCALER_LSB(ch)` (10_state.md R29): channels 0 and 1 use one field, 2 to 4 the other. -/
def prescalerLsb (c : Config) (ch : Channel) : Nat :=
  if ch.val < 2 then c.prescalerLsbLow else c.prescalerLsbHigh

/-- `div(ch)` for a `tcfg0` value (10_state.md R29). -/
def prescalerDiv (c : Config) (ch : Channel) (v0 : Word) : Word :=
  bitField v0 (prescalerLsb c ch) c.prescalerWidth + 1#32

/-- `pre_div(ch)` for a `tcfg1` value (10_state.md R30). -/
def muxPreDiv (c : Config) (ch : Channel) (v1 : Word) : Word :=
  1#32 <<< (bitField v1 c.muxLsb[ch.val] 4).toNat

/-- The mask of one named bit of `tcon` (10_state.md R31). -/
def tconMask (c : Config) (r : TconRole) (ch : Channel) : Word := 1#32 <<< c.tconBit r ch

/-- The first word of the update handshake, from the `tcon` value read (30_encoding.md R76). -/
def armedWord (c : Config) (ch : Channel) (t : Word) : Word :=
  t ||| tconMask c .update ch ||| tconMask c .autoReload ch

/-- The second word of the update handshake, from the first (30_encoding.md R76). -/
def disarmedWord (c : Config) (ch : Channel) (t1 : Word) : Word := t1 &&& ~~~tconMask c .update ch

/-- The word `PWM.SET_ENABLE` writes, from the `tcon` value read (30_encoding.md R76). -/
def enableWord (c : Config) (ch : Channel) (enable : Bool) (t : Word) : Word :=
  if enable then t ||| tconMask c .start ch else t &&& ~~~tconMask c .start ch

/-- `PackDelay` (30_encoding.md R77 and R78). -/
def packDelay (c : Config) (dd ds sd ss : Word) : Word :=
  match c.clkdlyLayout with
  | .positional =>
      (dd &&& 0xFF#32) ||| ((ds &&& 0x3#32) <<< 16) ||| ((sd &&& 0xFF#32) <<< 8) |||
        ((ss &&& 0x3#32) <<< c.clkdlySsLsb)
  | .sourceLiteral =>
      (dd &&& 0xFF#32) ||| ((ss &&& 0x3#32) <<< 16) ||| ((ds &&& 0xFF#32) <<< 8)

/-- The clock-select word (30_encoding.md R79, 41_mmc.md R125): both shifts 0, ratio 1 or 3. -/
def clkSelWord (boosted : Bool) : Word :=
  (0#32 <<< 0) ||| (0#32 <<< 16) ||| ((if boosted then 1#32 else 3#32) <<< 24)

/-- `"<device-class>.<index>"` (41_mmc.md R120). -/
def mmcClkName (c : Config) : String := c.mmcDevClass ++ "." ++ Nat.repr c.mmcDevIndex

/-- The address of a target register (20_memory.md R52). -/
def TargetReg.addr (c : Config) : TargetReg → Word
  | .tcfg0 => c.pwmBase + 0x00#32
  | .tcfg1 => c.pwmBase + 0x04#32
  | .tcon => c.pwmBase + 0x08#32
  | .tcntb ch => c.pwmBase + BitVec.ofNat 32 (0x0C + 12 * ch.val)
  | .tcmpb ch => c.pwmBase + BitVec.ofNat 32 (0x10 + 12 * ch.val)
  | .clksel => c.mmcBase + 0x09C#32
  | .clkdly => c.mmcBase + 0x114#32

/-- The port register at a byte offset from `PORT_BASE` (10_state.md R21); `none` at any other offset. -/
def portRegAt (offset : Word) : Option PortReg :=
  match offset.toNat with
  | 0x00 => some .cmd
  | 0x04 => some (.arg 0)
  | 0x08 => some (.arg 1)
  | 0x0C => some (.arg 2)
  | 0x10 => some (.arg 3)
  | 0x14 => some .result
  | 0x18 => some .status
  | _ => none

end Sys2Proof.Machine
end

