-- ==== Sys2Proof/Machine/Ops.lean ====
section
/-! DEFINITION. The named operations on the state: target-register accesses (00_scope.md R12), the
collaborator's five calls (R15), the event trace (R16), and the three ways a command ends: success, a
raised error (R13), a fault (R14). The block has no other exception and no return from one
(60_exceptions.md R153, R154). -/

namespace Sys2Proof.Machine

/-- Append one event to the trace (00_scope.md R16: issue order, oldest first). -/
def State.log (e : Event) (s : State) : State := { s with trace := s.trace ++ [e] }

/-- What a target register holds (10_state.md R28, R32, R33, R37). -/
def State.reg (s : State) : TargetReg → Word
  | .tcfg0 => s.tcfg0
  | .tcfg1 => s.tcfg1
  | .tcon => s.tcon
  | .tcntb ch => s.tcntb[ch.val]
  | .tcmpb ch => s.tcmpb[ch.val]
  | .clksel => s.clksel
  | .clkdly => s.clkdly

/-- Store a word in a target register. -/
def State.setReg (r : TargetReg) (v : Word) (s : State) : State :=
  match r with
  | .tcfg0 => { s with tcfg0 := v }
  | .tcfg1 => { s with tcfg1 := v }
  | .tcon => { s with tcon := v }
  | .tcntb ch => { s with tcntb := s.tcntb.set ch.val v }
  | .tcmpb ch => { s with tcmpb := s.tcmpb.set ch.val v }
  | .clksel => { s with clksel := v }
  | .clkdly => { s with clkdly := v }

/-- What a block read of a register returns (10_state.md R33: `tcfg0` and `tcfg1` under `Value` return the
fixed words; every other register returns what it holds). -/
def State.readValue (s : State) (r : TargetReg) : Word :=
  match s.cfg.tcfgReadback, r with
  | .value v0 _, .tcfg0 => v0
  | .value _ v1, .tcfg1 => v1
  | _, r => s.reg r

/-- What a write of `v` leaves in a register (10_state.md R33: under `Value` the stored value of `tcfg0`
and `tcfg1` is v0 and v1; every other register stores what is written). DEDUCED; log entry 10. -/
def storedValue (c : Config) (r : TargetReg) (v : Word) : Word :=
  match c.tcfgReadback, r with
  | .value v0 _, .tcfg0 => v0
  | .value _ v1, .tcfg1 => v1
  | _, _ => v

/-- `MemRead(addr, 4)` of the register at `addr` (00_scope.md R12). -/
def memRead (r : TargetReg) (s : State) : Word × State :=
  (s.readValue r, s.log (.memRead (r.addr s.cfg) (s.readValue r)))

/-- `MemWrite(addr, 4, v)` to the register at `addr` (00_scope.md R12). The trace records the word
written, also where the register stores another (10_state.md R33). -/
def memWrite (r : TargetReg) (v : Word) (s : State) : State :=
  (s.setReg r (storedValue s.cfg r v)).log (.memWrite (r.addr s.cfg) v)

/-- The answer the next `ClkResolve` gets (10_state.md R41; log entry 2). -/
def Collaborator.nextResolve (c : Collaborator) : Option Handle :=
  match c.resolves with
  | a :: _ => a
  | [] => Config.freeResolve c.draws

/-- The collaborator after it has answered a `ClkResolve`. -/
def Collaborator.afterResolve (c : Collaborator) : Collaborator :=
  match c.resolves with
  | _ :: rest => { c with resolves := rest }
  | [] => { c with draws := c.draws + 1 }

/-- The answer the next `ClkGetRate` gets. -/
def Collaborator.nextRate (c : Collaborator) : Word :=
  match c.rates with
  | a :: _ => a
  | [] => Config.freeRate c.draws

/-- The collaborator after it has answered a `ClkGetRate`. -/
def Collaborator.afterRate (c : Collaborator) : Collaborator :=
  match c.rates with
  | _ :: rest => { c with rates := rest }
  | [] => { c with draws := c.draws + 1 }

/-- The answer the next `ClkSetRate` gets. -/
def Collaborator.nextSetRate (c : Collaborator) : Word :=
  match c.setRates with
  | a :: _ => a
  | [] => Config.freeSetRate c.draws

/-- The collaborator after it has answered a `ClkSetRate`. -/
def Collaborator.afterSetRate (c : Collaborator) : Collaborator :=
  match c.setRates with
  | _ :: rest => { c with setRates := rest }
  | [] => { c with draws := c.draws + 1 }

/-- `ClkResolve(name)` (00_scope.md R15). -/
def clkResolve (name : String) (s : State) : Option Handle × State :=
  (s.collab.nextResolve,
    { s with collab := s.collab.afterResolve }.log (.clkResolve name s.collab.nextResolve))

/-- `ClkGetRate(h)` (00_scope.md R15). -/
def clkGetRate (h : Handle) (s : State) : Word × State :=
  (s.collab.nextRate, { s with collab := s.collab.afterRate }.log (.clkGetRate h s.collab.nextRate))

/-- `ClkSetRate(h, hz)` (00_scope.md R15). -/
def clkSetRate (h : Handle) (hz : Word) (s : State) : Word × State :=
  (s.collab.nextSetRate,
    { s with collab := s.collab.afterSetRate }.log (.clkSetRate h hz s.collab.nextSetRate))

/-- `ClkEnable(h)` (00_scope.md R15): it changes nothing the block reads (10_state.md R41). -/
def clkEnable (h : Handle) (s : State) : State := s.log (.clkEnable h)

/-- `ClkDisable(h)` (00_scope.md R15): it changes nothing the block reads (10_state.md R41). -/
def clkDisable (h : Handle) (s : State) : State := s.log (.clkDisable h)

/-- A command without a returned value succeeds: `STATUS.CODE <- 0` (10_state.md R23, R25). -/
def succeed (s : State) : State := { s with status := setCode s.status okCode }

/-- A value-returning command succeeds: `RESULT <- v`, `STATUS.CODE <- 0` (10_state.md R23). -/
def succeedWith (v : Word) (s : State) : State := succeed { s with result := v }

/-- `raise Error(kind)` (00_scope.md R13): `STATUS.CODE` is set, nothing else changes. -/
def raiseError (k : ErrorKind) (s : State) : State := { s with status := setCode s.status k.code }

/-- `fault F(reason)` (00_scope.md R14): the fields of `STATUS` are set and the block is `Faulted`
(60_exceptions.md R150). -/
def raiseFault (r : FaultReason) (s : State) : State :=
  { s with status := setFaultBits s.status r.code, control := .faulted }

/-- The effect of an illegal word: `STATUS.CODE` becomes 5 and nothing else changes (30_encoding.md
R69). -/
def rejectIllegal (s : State) : State := { s with status := setCode s.status illegalCommandCode }

/-- A reset that samples `c` (70_reset_and_hazards.md R170): the block, its trace and the last read value
are as after reset; the host's pending events and the collaborator, which the block does not reset, stay.
Log entry 7. -/
def resetBlock (c : Config) (s : State) : State :=
  { State.resetWith c with pending := s.pending, collab := s.collab }

end Sys2Proof.Machine
end

