-- ==== Sys2Proof/Machine/Clock.lean ====
section
/-! DEFINITION. The two clock-handle caches: `ResolvePwmParent()` (40_pwm.md R86) and `ResolveMmcClock()`
(41_mmc.md R120). Each answers a handle, or `none` where it raises `ClockResolutionError`. -/

namespace Sys2Proof.Machine

/-- `ResolvePwmParent()` (40_pwm.md R86). -/
def resolvePwmParent (s : State) : Option Handle × State :=
  match s.pwmClk with
  | .resolved h => (some h, s)
  | .unresolved =>
    match clkResolve s.cfg.pwmParentClkName s with
    | (none, s1) => (none, s1)
    | (some h, s1) => (some h, { s1 with pwmClk := .resolved h })

/-- `ResolveMmcClock()` (41_mmc.md R120). -/
def resolveMmcClock (s : State) : Option Handle × State :=
  match s.mmcClk with
  | .resolved h => (some h, s)
  | .unresolved =>
    match clkResolve (mmcClkName s.cfg) s with
    | (none, s1) => (none, s1)
    | (some h, s1) => (some h, { s1 with mmcClk := .resolved h })

end Sys2Proof.Machine
end

