-- ==== Sys2Proof/Machine/Mmc.lean ====
section
/-! DEFINITION. The MMC Clock/Delay Engine: the four commands of 41_mmc.md. -/

namespace Sys2Proof.Machine

/-- `MMC.GET_BASE_CLOCK` (41_mmc.md R122). -/
def execMmcGetBaseClock (s : State) : Host.Outcome State Fault Refusal :=
  .next <|
    match resolveMmcClock s with
    | (none, s1) => raiseError .clockResolutionError s1
    | (some h, s1) =>
      let (r, s2) := clkGetRate h s1
      succeedWith (r / 2#32) s2

/-- `MMC.SET_CLOCK requested_hz` (41_mmc.md R123). -/
def execMmcSetClock (s : State) : Host.Outcome State Fault Refusal :=
  .next <|
    match resolveMmcClock s with
    | (none, s1) => raiseError .clockResolutionError s1
    | (some h, s1) =>
      let (a, s2) := clkSetRate h (s.operand 0) (clkDisable h s1)
      succeedWith a (clkEnable h s2)

/-- `MMC.PROGRAM_DELAY drive_delay, drive_shift, sample_delay, sample_shift` (41_mmc.md R124). -/
def execMmcProgramDelay (s : State) : Host.Outcome State Fault Refusal :=
  .next <|
    succeed (memWrite .clkdly
      (packDelay s.cfg (s.operand 0) (s.operand 1) (s.operand 2) (s.operand 3)) s)

/-- `MMC.SELECT_CLOCK_MODE boosted` (41_mmc.md R125). -/
def execMmcSelectClockMode (boosted : Bool) (s : State) : Host.Outcome State Fault Refusal :=
  .next <| succeedWith (clkSelWord boosted) (memWrite .clksel (clkSelWord boosted) s)

end Sys2Proof.Machine
end

