-- ==== Sys2Proof/Machine/Pwm.lean ====
section
/-! DEFINITION. The PWM Timing Engine: the helpers and the three commands of 40_pwm.md. -/

namespace Sys2Proof.Machine

/-- The division of `TinFixedReadback` (40_pwm.md R87), from the two words read. -/
def fixedReadbackRate (c : Config) (ch : Channel) (parent v0 v1 : Word) : Word :=
  (parent / prescalerDiv c ch v0) / muxPreDiv c ch v1

/-- `TinFixedReadback(ch, parent)` (40_pwm.md R87). -/
def tinFixedReadback (ch : Channel) (parent : Word) (s : State) : Word × State :=
  let (v0, s2) := memRead .tcfg0 (memWrite .tcfg0 0#32 s)
  let (v1, s4) := memRead .tcfg1 (memWrite .tcfg1 0#32 s2)
  (fixedReadbackRate s.cfg ch parent v0 v1, s4)

/-- The loop of `TinSearch` over the dividers still to try (40_pwm.md R88). -/
def tinSearchFrom (ret : SearchReturn) (freq parent : Word) : List Nat → Word
  | [] => parent / 16#32
  | d :: rest =>
    if parent / BitVec.ofNat 32 (d * 65536) < freq then
      match ret with
      | .divide => parent / BitVec.ofNat 32 d
      | .shiftByDiv => parent >>> d
    else tinSearchFrom ret freq parent rest

/-- `TinSearch(freq, parent)` (40_pwm.md R88): the dividers 2, 4, 8, 16, ascending. -/
def tinSearch (c : Config) (freq parent : Word) : Word :=
  tinSearchFrom c.searchReturn freq parent [2, 4, 8, 16]

/-- `DeriveTin(ch, freq)` (40_pwm.md R89): `none` where it raises `ClockResolutionError`. -/
def deriveTin (ch : Channel) (freq : Word) (s : State) : Option Word × State :=
  match resolvePwmParent s with
  | (none, s1) => (none, s1)
  | (some h, s1) =>
    let (parent, s2) := clkGetRate h s1
    match s2.cfg.tinPolicy with
    | .fixedReadback =>
      let (rate, s3) := tinFixedReadback ch parent s2
      (some rate, s3)
    | .search => (some (tinSearch s2.cfg freq parent), s2)

/-- The reload value of step 4 (40_pwm.md R91), from the count `q`. -/
def counterReload (c : Config) (q : Word) : Except FaultReason Word :=
  match c.counterVariant, c.counterUnderflow with
  | .fromZero, .fault => if q = 0#32 then .error .counterUnderflow else .ok (q - 1#32)
  | .fromZero, .wrap => if q = 0#32 then .ok 0xFFFFFFFF#32 else .ok (q - 1#32)
  | .plain, _ => .ok q

/-- Steps 3 to 6 of `PWM.SET_CONFIG` (40_pwm.md R91): the reload and the compare value, or the fault. -/
def pwmTiming (c : Config) (period duty tinRate : Word) : Except FaultReason (Word × Word) :=
  if tinRate = 0#32 then .error .tinRateZero
  else if ns / tinRate = 0#32 then .error .tinNsZero
  else
    match counterReload c (period / (ns / tinRate)) with
    | .error r => .error r
    | .ok tcnt => .ok (tcnt, tcnt - minWord (duty / (ns / tinRate)) tcnt)

/-- The two-phase update handshake on `tcon` (40_pwm.md R91, R94). -/
def updateHandshake (ch : Channel) (s : State) : State :=
  let (t, s1) := memRead .tcon s
  let t1 := armedWord s.cfg ch t
  memWrite .tcon (disarmedWord s.cfg ch t1) (memWrite .tcon t1 s1)

/-- `RangeError`'s condition (60_exceptions.md R146). -/
abbrev outOfRange (period duty : Word) : Prop := period = 0#32 ∨ ns < period ∨ ns < duty

/-- `PWM.DERIVE_TIN ch, requested_freq` (40_pwm.md R90). -/
def execPwmDeriveTin (ch : Nat) (s : State) : Host.Outcome State Fault Refusal :=
  .next <|
    match checkChannel ch with
    | none => raiseError .unsupportedChannelError s
    | some c =>
      match deriveTin c (s.operand 0) s with
      | (none, s1) => raiseError .clockResolutionError s1
      | (some rate, s1) => succeedWith rate s1

/-- `PWM.SET_CONFIG ch, period_ns, duty_ns` (40_pwm.md R91). -/
def execPwmSetConfig (ch : Nat) (s : State) : Host.Outcome State Fault Refusal :=
  .next <|
    match checkChannel ch with
    | none => raiseError .unsupportedChannelError s
    | some c =>
      if outOfRange (s.operand 0) (s.operand 1) then raiseError .rangeError s
      else if s.operand 0 < s.operand 1 then raiseError .invalidError s
      else
        match deriveTin c (ns / s.operand 0) s with
        | (none, s1) => raiseError .clockResolutionError s1
        | (some tinRate, s1) =>
          match pwmTiming s1.cfg (s.operand 0) (s.operand 1) tinRate with
          | .error r => raiseFault r s1
          | .ok (tcnt, tcmp) =>
            succeed (updateHandshake c (memWrite (.tcmpb c) tcmp (memWrite (.tcntb c) tcnt s1)))

/-- `PWM.SET_ENABLE ch, enable` (40_pwm.md R98). -/
def execPwmSetEnable (ch : Nat) (enable : Bool) (s : State) : Host.Outcome State Fault Refusal :=
  .next <|
    match checkChannel ch with
    | none => raiseError .unsupportedChannelError s
    | some c =>
      let (t, s1) := memRead .tcon s
      succeed (memWrite .tcon (enableWord s.cfg c enable t) s1)

end Sys2Proof.Machine
end

