-- ==== Sys2Proof/Machine/Dispatch.lean ====
section
/-! DEFINITION. The dispatch: one arm per command, each one direct call of its meaning. -/

namespace Sys2Proof.Machine

def exec (i : Instr) (s : State) : Host.Outcome State Fault Refusal :=
  match i with
  | .pwmDeriveTin ch => Sys2Proof.Machine.execPwmDeriveTin ch s
  | .pwmSetConfig ch => Sys2Proof.Machine.execPwmSetConfig ch s
  | .pwmSetEnable ch enable => Sys2Proof.Machine.execPwmSetEnable ch enable s
  | .mmcGetBaseClock => Sys2Proof.Machine.execMmcGetBaseClock s
  | .mmcSetClock => Sys2Proof.Machine.execMmcSetClock s
  | .mmcProgramDelay => Sys2Proof.Machine.execMmcProgramDelay s
  | .mmcSelectClockMode boosted => Sys2Proof.Machine.execMmcSelectClockMode boosted s

end Sys2Proof.Machine
end

