-- ==== Sys2Proof/Machine/Port.lean ====
section
/-! DEFINITION. What one event from outside does to the block: host reads and writes of the command port
(10_state.md R21 to R26; 20_memory.md R53 to R56) and reset (70_reset_and_hazards.md R170). -/

namespace Sys2Proof.Machine

/-- A host write of `w` to `CMD` (10_state.md R26): ignored while `Faulted`, else decoded and executed; an
illegal word has the effect of 30_encoding.md R69. -/
def launch (w : Word) (s : State) : Host.Outcome State Fault Refusal :=
  match s.control with
  | .faulted => .next s
  | .idle =>
    match decode w with
    | .ok i => exec i s
    | .error _ => .next (rejectIllegal s)

/-- What a host read of a port register returns (10_state.md R21): `CMD` reads 0. -/
def State.portValue (s : State) : PortReg → Word
  | .cmd => 0#32
  | .arg i => s.arg[i.val]
  | .result => s.result
  | .status => s.status

/-- A host write to a port register (10_state.md R21): `RESULT` and `STATUS` ignore writes. -/
def portWrite (r : PortReg) (v : Word) (s : State) : Host.Outcome State Fault Refusal :=
  match r with
  | .cmd => launch v s
  | .arg i => .next { s with arg := s.arg.set i.val v }
  | .result => .next s
  | .status => .next s

/-- The port register a host access reaches, or why it is refused (20_memory.md R53, R54, R56). -/
def portAccess (c : Config) (addr : Word) (bits : Nat) : Except Refusal PortReg :=
  if bits ≠ 32 then .error .hostAccessWidth
  else if addr.toNat % 4 ≠ 0 then .error .hostAccessMisaligned
  else
    match portRegAt (addr - c.portBase) with
    | some r => .ok r
    | none => .error .hostAccessNoRegister

/-- One event performed. A host read leaves its value in `lastRead` and has no other effect (20_memory.md
R57). -/
def perform (e : HostEvent) (s : State) : Host.Outcome State Fault Refusal :=
  match e with
  | .read addr bits =>
    match portAccess s.cfg addr bits with
    | .ok r => .next { s with lastRead := some (s.portValue r) }
    | .error why => .refused why
  | .write addr bits v =>
    match portAccess s.cfg addr bits with
    | .ok r => portWrite r v s
    | .error why => .refused why
  | .reset c => if c.Ok then .next (resetBlock c s) else .refused .configurationNotAllowed

/-- The next pending event is taken off the list and performed; with none pending the block waits
(10_state.md R20). Log entry 1. -/
def hostStep (s : State) : Host.Outcome State Fault Refusal :=
  match s.pending with
  | [] => .next s
  | e :: rest => perform e { s with pending := rest }

/-- Put one `CMD` write in front of the pending events, so that the next step performs it. -/
def withCommandWrite (s : State) (w : Word) : State :=
  { s with pending := .write s.cfg.portBase 32 w :: s.pending }

end Sys2Proof.Machine
end

