-- ==== Sys2Proof/Machine/Step.lean ====
section
/-! DEFINITION. One step of the machine: the next host event is performed (10_state.md R20, R26; 20_memory.md
R60). The block fetches no instruction (20_memory.md R63): a command comes from a `CMD` write. -/

namespace Sys2Proof.Machine

/-- One step. -/
def step (s : State) : Host.Outcome State Fault Refusal := hostStep s

/-- `s` with a `CMD` write of the word `w` (its low `nbits` bits) as the next pending event. The block has
no instruction memory: this stands for the host's write. Log entry 1. -/
def State.withFetchWord (s : State) (nbits w : Nat) : State :=
  withCommandWrite s (BitVec.ofNat 32 (w % 2 ^ nbits))

end Sys2Proof.Machine
end

