-- ==== Sys2Proof/Machine/Assembler.lean ====
section
/-! DEFINITION. The spec's assembler (30_encoding.md R72 to R74): its lines, the check that rejects a line,
the host accesses a line stands for, the four pseudo-instructions, and the text of a line. -/

namespace Sys2Proof.Machine

/-- One line of the assembler: a command (R72), a pseudo-instruction (R73) or a raw port access (R74). -/
inductive AsmLine where
  | deriveTin (ch requestedFreq : Nat)
  | setConfig (ch periodNs dutyNs : Nat)
  | setEnable (ch enable : Nat)
  | getBaseClock
  | setClock (requestedHz : Nat)
  | programDelay (driveDelay driveShift sampleDelay sampleShift : Nat)
  | selectClockMode (boosted : Nat)
  | enable (ch : Nat)
  | disable (ch : Nat)
  | modeBoosted
  | modeNormal
  | writeArg (n value : Nat)
  | writeCmd (word : Nat)
  | readResult
  | readStatus
  deriving DecidableEq, Repr

/-- A pseudo-instruction stands for exactly one command (R73). -/
def AsmLine.expand : AsmLine → AsmLine
  | .enable ch => .setEnable ch 1
  | .disable ch => .setEnable ch 0
  | .modeBoosted => .selectClockMode 1
  | .modeNormal => .selectClockMode 0
  | l => l

/-- A 32-bit operand: 0 to 0xFFFFFFFF (R72). -/
def isWord32 (v : Nat) : Bool := v < 2 ^ 32

/-- What the assembler accepts (R72): `ch` 0 to 15, a flag 0 or 1, a 32-bit operand; and, for a raw access,
one of the four ARG registers (R74). -/
def AsmLine.wellFormed : AsmLine → Bool
  | .deriveTin ch f => ch ≤ 15 && isWord32 f
  | .setConfig ch p d => ch ≤ 15 && isWord32 p && isWord32 d
  | .setEnable ch e => ch ≤ 15 && e ≤ 1
  | .getBaseClock => true
  | .setClock hz => isWord32 hz
  | .programDelay dd ds sd ss => isWord32 dd && isWord32 ds && isWord32 sd && isWord32 ss
  | .selectClockMode b => b ≤ 1
  | .enable ch => ch ≤ 15
  | .disable ch => ch ≤ 15
  | .modeBoosted => true
  | .modeNormal => true
  | .writeArg n v => n ≤ 3 && isWord32 v
  | .writeCmd w => isWord32 w
  | .readResult => true
  | .readStatus => true

/-- The write `ARG[i] <- v` (10_state.md R21). -/
def writeArgEvent (c : Config) (i v : Nat) : HostEvent :=
  .write (c.portBase + BitVec.ofNat 32 (0x04 + 4 * i)) 32 (BitVec.ofNat 32 v)

/-- The writes of consecutive ARG registers from `ARG[i]` up. -/
def writeArgEvents (c : Config) (i : Nat) : List Nat → List HostEvent
  | [] => []
  | v :: rest => writeArgEvent c i v :: writeArgEvents c (i + 1) rest

/-- The write `CMD <- word`. -/
def writeCmdEvent (c : Config) (w : Word) : HostEvent := .write c.portBase 32 w

/-- A command with its ARG operands: first the ARG writes in increasing order, then the CMD write (R72). -/
def commandEvents (c : Config) (i : Instr) (operands : List Nat) : List HostEvent :=
  writeArgEvents c 0 operands ++ [writeCmdEvent c (encode i)]

/-- The host accesses of a line that the assembler accepts, after expansion (R72 to R74). -/
def AsmLine.events (c : Config) : AsmLine → List HostEvent
  | .deriveTin ch f => commandEvents c (.pwmDeriveTin ch) [f]
  | .setConfig ch p d => commandEvents c (.pwmSetConfig ch) [p, d]
  | .setEnable ch e => commandEvents c (.pwmSetEnable ch (e = 1)) []
  | .getBaseClock => commandEvents c .mmcGetBaseClock []
  | .setClock hz => commandEvents c .mmcSetClock [hz]
  | .programDelay dd ds sd ss => commandEvents c .mmcProgramDelay [dd, ds, sd, ss]
  | .selectClockMode b => commandEvents c (.mmcSelectClockMode (b = 1)) []
  | .enable ch => commandEvents c (.pwmSetEnable ch true) []
  | .disable ch => commandEvents c (.pwmSetEnable ch false) []
  | .modeBoosted => commandEvents c (.mmcSelectClockMode true) []
  | .modeNormal => commandEvents c (.mmcSelectClockMode false) []
  | .writeArg n v => [writeArgEvent c n v]
  | .writeCmd w => [writeCmdEvent c (BitVec.ofNat 32 w)]
  | .readResult => [.read (c.portBase + 0x14#32) 32]
  | .readStatus => [.read (c.portBase + 0x18#32) 32]

/-- A line assembles to its host accesses, or is rejected (R72). -/
def assemble (c : Config) (l : AsmLine) : Option (List HostEvent) :=
  if l.wellFormed then some (l.events c) else none

/-- A blank of a line. The spec names none; DESIGN CHOICE: space and tab. Log entry 16. -/
def isBlank (ch : Char) : Bool := ch = ' ' || ch = '\t'

/-- A text without the blanks at its two ends. -/
def trimBlanks (cs : List Char) : List Char :=
  ((cs.dropWhile isBlank).reverse.dropWhile isBlank).reverse

/-- The value of a digit in a base up to 16; capitals and small letters alike (log entry 16). -/
def digitValue (base : Nat) (ch : Char) : Option Nat :=
  let n := ch.toNat
  let v := if 48 ≤ n ∧ n ≤ 57 then n - 48
    else if 97 ≤ n ∧ n ≤ 102 then n - 87
    else if 65 ≤ n ∧ n ≤ 70 then n - 55
    else base
  if v < base then some v else none

/-- The number that digits write after the value read so far; `_` only groups (R72). DESIGN CHOICE: where a `_`
may stand the spec leaves open; after the first digit it may stand anywhere, also repeated (`1__000`) or at the
end (`12_`). Log entry 16. -/
def parseDigits (base acc : Nat) : List Char → Option Nat
  | [] => some acc
  | ch :: rest =>
    if ch = '_' then parseDigits base acc rest
    else
      match digitValue base ch with
      | some d => parseDigits base (acc * base + d) rest
      | none => none

/-- A number: decimal, or hexadecimal with `0x` (R72). DESIGN CHOICE: it starts with a digit, so `_1` and `0x_1`
are no numbers, and the prefix is a small `x`. Log entry 16. -/
def parseNumber (cs : List Char) : Option Nat :=
  match cs with
  | '0' :: 'x' :: d :: rest => if d = '_' then none else parseDigits 16 0 (d :: rest)
  | d :: rest => if d = '_' then none else parseDigits 10 0 (d :: rest)
  | [] => none

/-- The operands of a line: the texts between commas, without the blanks around them. -/
def splitOperands (current : List Char) : List Char → List (List Char)
  | [] => [trimBlanks current]
  | ch :: rest =>
    if ch = ',' then trimBlanks current :: splitOperands [] rest
    else splitOperands (current ++ [ch]) rest

/-- All the numbers of a list of operand texts. -/
def parseNumbers : List (List Char) → Option (List Nat)
  | [] => some []
  | t :: rest =>
    match parseNumber t, parseNumbers rest with
    | some v, some vs => some (v :: vs)
    | _, _ => none

/-- The text after the mnemonic, as operands: none where it is empty. -/
def operandTexts (cs : List Char) : List (List Char) :=
  match trimBlanks cs with
  | [] => []
  | t => splitOperands [] t

/-- A line with a mnemonic of R72 or R73 and numeric operands. -/
def commandLine (mnemonic : String) (ops : List Nat) : Option AsmLine :=
  match mnemonic, ops with
  | "PWM.DERIVE_TIN", [ch, f] => some (.deriveTin ch f)
  | "PWM.SET_CONFIG", [ch, p, d] => some (.setConfig ch p d)
  | "PWM.SET_ENABLE", [ch, e] => some (.setEnable ch e)
  | "MMC.GET_BASE_CLOCK", [] => some .getBaseClock
  | "MMC.SET_CLOCK", [hz] => some (.setClock hz)
  | "MMC.PROGRAM_DELAY", [dd, ds, sd, ss] => some (.programDelay dd ds sd ss)
  | "MMC.SELECT_CLOCK_MODE", [b] => some (.selectClockMode b)
  | "PWM.ENABLE", [ch] => some (.enable ch)
  | "PWM.DISABLE", [ch] => some (.disable ch)
  | "MMC.MODE_BOOSTED", [] => some .modeBoosted
  | "MMC.MODE_NORMAL", [] => some .modeNormal
  | _, _ => none

/-- A raw write `WR ARGn, value` or `WR CMD, word` (R74), from the register's name and the value. -/
def rawWriteLine (register : String) (v : Nat) : Option AsmLine :=
  match register with
  | "ARG0" => some (.writeArg 0 v)
  | "ARG1" => some (.writeArg 1 v)
  | "ARG2" => some (.writeArg 2 v)
  | "ARG3" => some (.writeArg 3 v)
  | "CMD" => some (.writeCmd v)
  | _ => none

/-- A raw read `RD RESULT` or `RD STATUS` (R74). -/
def rawReadLine (register : String) : Option AsmLine :=
  match register with
  | "RESULT" => some .readResult
  | "STATUS" => some .readStatus
  | _ => none

/-- The line that a text writes: `MNEMONIC op1, op2, ...`, a comment from `;` to the end (R72). A text
that is no line of R72 to R74 gives none. -/
def parseLine (text : List Char) : Option AsmLine :=
  let body := trimBlanks (text.takeWhile (fun ch => ch ≠ ';'))
  let mnemonic := String.ofList (body.takeWhile (fun ch => !isBlank ch))
  let ops := operandTexts (body.dropWhile (fun ch => !isBlank ch))
  match mnemonic, ops with
  | "WR", [r, v] =>
    match parseNumber v with
    | some n => rawWriteLine (String.ofList r) n
    | none => none
  | "RD", [r] => rawReadLine (String.ofList r)
  | m, ts =>
    match parseNumbers ts with
    | some vs => commandLine m vs
    | none => none

end Sys2Proof.Machine
end

