-- ==== Sys2Proof/Safety.lean ====
section
/-! DEFINITION. What counts as a safe run, in the terms the claims use: which host events the block allows,
the invariant that every step keeps, and views of the event trace. -/

namespace Sys2Proof.Machine

/-- A host event that is not refused: a 32-bit access at one of the seven port offsets of 10_state.md R21,
aligned (20_memory.md R53, R54, R56), or a reset that samples an allowed configuration. -/
def HostEvent.Allowed (c : Config) : HostEvent → Prop
  | .read addr bits => bits = 32 ∧ addr.toNat % 4 = 0 ∧ ∃ k < 7, addr = c.portBase + BitVec.ofNat 32 (4 * k)
  | .write addr bits _ =>
      bits = 32 ∧ addr.toNat % 4 = 0 ∧ ∃ k < 7, addr = c.portBase + BitVec.ofNat 32 (4 * k)
  | .reset c' => c'.Ok

/-- A host event that is no reset. -/
def HostEvent.isReset : HostEvent → Bool
  | .read _ _ => false
  | .write _ _ _ => false
  | .reset _ => true

/-- The next event of a state is no reset. -/
def State.NoResetNext (s : State) : Prop := ∀ e, s.pending.head? = some e → e.isReset = false

/-- `STATUS` and the control state agree, and `STATUS` is one of the nine words the rules allow: while
`Idle`, a code 0 to 5 and nothing else; while `Faulted`, `FAULT`, a reason 1 to 3 and code 6 (10_state.md
R24; 60_exceptions.md R146, R148, R150). -/
def State.StatusLegal (s : State) : Prop :=
  (s.control = .idle ∧ s.status ∈ [0#32, 1#32, 2#32, 3#32, 4#32, 5#32]) ∨
  (s.control = .faulted ∧ s.status ∈ [0x80000016#32, 0x80000026#32, 0x80000036#32])

/-- The address of a memory event is that of a target register (20_memory.md R52). -/
def Event.AddrLegal (c : Config) : Event → Prop
  | .memRead addr _ => ∃ r : TargetReg, addr = r.addr c
  | .memWrite addr _ => ∃ r : TargetReg, addr = r.addr c
  | _ => True

/-- If it is a memory event, it is at one of these registers (20_memory.md R52). -/
def Event.OnlyAt (c : Config) (regs : List TargetReg) : Event → Prop
  | .memRead addr _ => ∃ r ∈ regs, addr = r.addr c
  | .memWrite addr _ => ∃ r ∈ regs, addr = r.addr c
  | _ => True

/-- The PWM target registers (10_state.md R27). -/
def pwmRegs : List TargetReg :=
  [.tcfg0, .tcfg1, .tcon, .tcntb 0, .tcntb 1, .tcntb 2, .tcntb 3, .tcntb 4,
   .tcmpb 0, .tcmpb 1, .tcmpb 2, .tcmpb 3, .tcmpb 4]

/-- Every memory event of the trace is at a target register (20_memory.md R52). -/
def State.TraceLegal (s : State) : Prop := ∀ e ∈ s.trace, e.AddrLegal s.cfg

/-- A cached handle is one the collaborator returned for the cache's name (10_state.md R38, R39). -/
def State.HandlesFromTrace (s : State) : Prop :=
  (∀ h, s.pwmClk = .resolved h → .clkResolve s.cfg.pwmParentClkName (some h) ∈ s.trace) ∧
  (∀ h, s.mmcClk = .resolved h → .clkResolve (mmcClkName s.cfg) (some h) ∈ s.trace)

/-- A `ClkResolve` that answered a handle. -/
def Event.isResolution : Event → Bool
  | .clkResolve _ (some _) => true
  | _ => false

/-- A `ClkResolve`, whatever its answer. -/
def Event.isResolve : Event → Bool
  | .clkResolve _ _ => true
  | _ => false

/-- 1 for a resolved cache, else 0. -/
def ClkCache.count : ClkCache → Nat
  | .unresolved => 0
  | .resolved _ => 1

/-- As many successful resolutions in the trace as resolved caches: none is made twice (41_mmc.md R121). -/
def State.OneResolutionEach (s : State) : Prop :=
  s.trace.countP Event.isResolution = s.pwmClk.count + s.mmcClk.count

/-- The invariant of the block. -/
def State.Inv (s : State) : Prop :=
  s.cfg.Ok ∧ s.StatusLegal ∧ s.TraceLegal ∧ s.HandlesFromTrace ∧ s.OneResolutionEach

/-- No channel is armed: every update-pending bit of `tcon` is clear (70_reset_and_hazards.md R174). -/
def State.Unarmed (s : State) : Prop := ∀ ch : Channel, s.tcon &&& tconMask s.cfg .update ch = 0#32

/-- The writes of a trace, as address and word, in order. -/
def targetWrites (tr : List Event) : List (Word × Word) :=
  tr.filterMap fun e => match e with
    | .memWrite addr v => some (addr, v)
    | _ => none

/-- The most events that a command makes (70_reset_and_hazards.md R181). -/
def maxEvents : Instr → Nat
  | .pwmDeriveTin _ => 6
  | .pwmSetConfig _ => 11
  | .pwmSetEnable _ _ => 2
  | .mmcGetBaseClock => 2
  | .mmcSetClock => 4
  | .mmcProgramDelay => 1
  | .mmcSelectClockMode _ => 1

/-- A command that needs the PWM parent clock gets the handle `h`: it is cached, or the collaborator is about
to answer it (40_pwm.md R86). -/
abbrev State.PwmClockIs (s : State) (h : Handle) : Prop :=
  s.pwmClk = .resolved h ∨ (s.pwmClk = .unresolved ∧ s.collab.nextResolve = some h)

/-- The PWM parent clock is not cached and the collaborator is about to answer `NotFound`. -/
abbrev State.PwmClockNotFound (s : State) : Prop :=
  s.pwmClk = .unresolved ∧ s.collab.nextResolve = none

/-- The same for the MMC source clock (41_mmc.md R120). -/
abbrev State.MmcClockIs (s : State) (h : Handle) : Prop :=
  s.mmcClk = .resolved h ∨ (s.mmcClk = .unresolved ∧ s.collab.nextResolve = some h)

/-- The MMC source clock is not cached and the collaborator is about to answer `NotFound`. -/
abbrev State.MmcClockNotFound (s : State) : Prop :=
  s.mmcClk = .unresolved ∧ s.collab.nextResolve = none

/-- The events of resolving a clock by name: one call if the cache is `Unresolved`, else none (40_pwm.md
R86, 41_mmc.md R120). -/
def resolveEvents (cache : ClkCache) (name : String) (c : Collaborator) : List Event :=
  match cache with
  | .unresolved => [.clkResolve name c.nextResolve]
  | .resolved _ => []

/-- The collaborator after a clock was resolved by name. -/
def collabAfterResolve (cache : ClkCache) (c : Collaborator) : Collaborator :=
  match cache with
  | .unresolved => c.afterResolve
  | .resolved _ => c

/-- The parent rate that the next derivation reads (40_pwm.md R89). -/
def State.pwmRate (s : State) : Word := (collabAfterResolve s.pwmClk s.collab).nextRate

/-- The word that the zero write to `tcfg0` leaves there and the read returns (10_state.md R33). -/
def readback0 (c : Config) : Word :=
  match c.tcfgReadback with
  | .plain => 0#32
  | .value v0 _ => v0

/-- The same for `tcfg1` (10_state.md R33). -/
def readback1 (c : Config) : Word :=
  match c.tcfgReadback with
  | .plain => 0#32
  | .value _ v1 => v1

/-- The accesses of a derivation to `tcfg0` and `tcfg1`: four under `FixedReadback`, none under `Search`
(40_pwm.md R87, R88). -/
def readbackEvents (c : Config) : List Event :=
  match c.tinPolicy with
  | .search => []
  | .fixedReadback =>
    [.memWrite (TargetReg.tcfg0.addr c) 0#32, .memRead (TargetReg.tcfg0.addr c) (readback0 c),
     .memWrite (TargetReg.tcfg1.addr c) 0#32, .memRead (TargetReg.tcfg1.addr c) (readback1 c)]

/-- The events of a derivation once the clock is there, in the order of 40_pwm.md R99. -/
def State.deriveEvents (s : State) (h : Handle) : List Event :=
  resolveEvents s.pwmClk s.cfg.pwmParentClkName s.collab ++ [.clkGetRate h s.pwmRate] ++
    readbackEvents s.cfg

/-- The rate that a derivation gives for a channel and a frequency (40_pwm.md R87 to R89). -/
def State.derivedRate (s : State) (ch : Channel) (freq : Word) : Word :=
  match s.cfg.tinPolicy with
  | .search => tinSearch s.cfg freq s.pwmRate
  | .fixedReadback => fixedReadbackRate s.cfg ch s.pwmRate (readback0 s.cfg) (readback1 s.cfg)

/-- Everything that a derivation with the handle `h` changes: the cache, the collaborator's answers, the
trace, and `tcfg0` and `tcfg1` under `FixedReadback` (40_pwm.md R86 to R89, R99). -/
def State.afterDerive (s : State) (h : Handle) : State :=
  { s with
    pwmClk := .resolved h
    collab := (collabAfterResolve s.pwmClk s.collab).afterRate
    trace := s.trace ++ s.deriveEvents h
    tcfg0 := match s.cfg.tinPolicy with
      | .search => s.tcfg0
      | .fixedReadback => readback0 s.cfg
    tcfg1 := match s.cfg.tinPolicy with
      | .search => s.tcfg1
      | .fixedReadback => readback1 s.cfg }

/-- The events of the reload and compare writes and the update handshake of `PWM.SET_CONFIG` (40_pwm.md R91,
R99). -/
def State.configEvents (s : State) (ch : Channel) (tcnt tcmp : Word) : List Event :=
  [.memWrite (TargetReg.addr s.cfg (.tcntb ch)) tcnt,
   .memWrite (TargetReg.addr s.cfg (.tcmpb ch)) tcmp,
   .memRead (TargetReg.tcon.addr s.cfg) s.tcon,
   .memWrite (TargetReg.tcon.addr s.cfg) (armedWord s.cfg ch s.tcon),
   .memWrite (TargetReg.tcon.addr s.cfg) (disarmedWord s.cfg ch (armedWord s.cfg ch s.tcon))]

/-- What a failed resolution by name changes beside `STATUS.CODE`: the failed `ClkResolve` event, and the
collaborator's answers (60_exceptions.md R149). -/
def State.afterNotFound (s : State) (name : String) : State :=
  { s with
    trace := s.trace ++ [.clkResolve name none]
    collab := s.collab.afterResolve }

/-- The target registers that a command may write (20_memory.md R50, R52; 10_state.md R27, R37). -/
def MayWrite : Instr → TargetReg → Prop
  | .pwmDeriveTin _, r => r = .tcfg0 ∨ r = .tcfg1
  | .pwmSetConfig ch, r =>
      r = .tcfg0 ∨ r = .tcfg1 ∨ r = .tcon ∨ ∃ c : Channel, ch = c.val ∧ (r = .tcntb c ∨ r = .tcmpb c)
  | .pwmSetEnable _ _, r => r = .tcon
  | .mmcGetBaseClock, _ => False
  | .mmcSetClock, _ => False
  | .mmcProgramDelay, r => r = .clkdly
  | .mmcSelectClockMode _, r => r = .clksel

/-- The PWM channel that a command names, if any. -/
def channelOf : Instr → Option Nat
  | .pwmDeriveTin ch => some ch
  | .pwmSetConfig ch => some ch
  | .pwmSetEnable ch _ => some ch
  | .mmcGetBaseClock => none
  | .mmcSetClock => none
  | .mmcProgramDelay => none
  | .mmcSelectClockMode _ => none

/-- A command of the PWM engine; the others are the MMC engine's. -/
def isPwm (i : Instr) : Bool := (channelOf i).isSome

/-- A command that returns a value in `RESULT` (10_state.md R23). -/
def returnsValue : Instr → Bool
  | .pwmDeriveTin _ => true
  | .pwmSetConfig _ => false
  | .pwmSetEnable _ _ => false
  | .mmcGetBaseClock => true
  | .mmcSetClock => true
  | .mmcProgramDelay => false
  | .mmcSelectClockMode _ => true

/-- The code and the reason that a command reports, in the order of 60_exceptions.md R151. A reason is
reported only with code 6. -/
def expectedOutcome (i : Instr) (s : State) : BitVec 4 × Option (BitVec 4) :=
  match i with
  | .pwmDeriveTin ch =>
      if 5 ≤ ch then (4, none) else if s.PwmClockNotFound then (3, none) else (0, none)
  | .pwmSetConfig ch =>
      if h : ch < 5 then
        if outOfRange (s.operand 0) (s.operand 1) then (1, none)
        else if s.operand 0 < s.operand 1 then (2, none)
        else if s.PwmClockNotFound then (3, none)
        else
          let tin := s.derivedRate ⟨ch, h⟩ (ns / s.operand 0)
          if tin = 0#32 then (6, some 1)
          else if ns < tin then (6, some 2)
          else if s.cfg.counterVariant = .fromZero ∧ s.cfg.counterUnderflow = .fault ∧
              s.operand 0 < ns / tin then (6, some 3)
          else (0, none)
      else (4, none)
  | .pwmSetEnable ch _ => if 5 ≤ ch then (4, none) else (0, none)
  | .mmcGetBaseClock => if s.MmcClockNotFound then (3, none) else (0, none)
  | .mmcSetClock => if s.MmcClockNotFound then (3, none) else (0, none)
  | .mmcProgramDelay => (0, none)
  | .mmcSelectClockMode _ => (0, none)

end Sys2Proof.Machine
end

