-- ==== Sys2Proof/Certificates/Slice0/Obligations.lean ====
section
/-! DEFINITION. The statements for the provers, from the numbered rules of the spec. Each docstring names the
rule. `exec i s = .next t` speaks of the command itself, in any control state; the statements about `step`
say when a step runs a command. A parameter of 00_scope.md R7 is a field of `s.cfg`, so a statement about
every state holds for every value of it; the same for the collaborator's answers (10_state.md R41). -/

open Sys2Proof Sys2Proof.Machine

/-! ### Encoding -/

/-- R65, R67, R71: decoding the word of a well-formed command gives the command back. -/
def Obligations.DecodeEncodeRoundTrip : Prop :=
  ∀ i : Instr, i.WellFormed → decode (encode i) = .ok i

/-- R65, R71: a word that decodes to a command is that command's word, and the command is well formed: each
command has one word. -/
def Obligations.EncodeDecodeRoundTrip : Prop :=
  ∀ (w : Word) (i : Instr), decode w = .ok i → i.WellFormed ∧ encode i = w

/-- R68: a word selects a row exactly if it decodes to a command of that row; no word matches two rows. -/
def Obligations.DecodeAgreesWithMatchMask : Prop :=
  (∀ w : Word, ∀ row ∈ opcodeTable, row.Selects w ↔ ∃ i, decode w = .ok i ∧ i.row = row) ∧
  (∀ w : Word, ∀ row ∈ opcodeTable, ∀ row' ∈ opcodeTable, row.Selects w → row'.Selects w → row = row')

/-- R69: the words that match no row are those of the listed kinds; such a word, written to `CMD` of an idle
block, sets `CODE` to 5 and does nothing else. -/
def Obligations.IllegalWordOnlySetsCode : Prop :=
  (∀ w : Word, (∀ row ∈ opcodeTable, ¬ row.Selects w) ↔
    (opField w ∈ [0x0, 0x4, 0x5, 0x6, 0x7, 0xC, 0xD, 0xE, 0xF] ∨ rsvField w ≠ 0 ∨
      (flagField w = true ∧ opField w ∈ [0x1, 0x2, 0x8, 0x9, 0xA]) ∨
      (chField w ≠ 0 ∧ opField w ∈ [0x8, 0x9, 0xA, 0xB]))) ∧
  (∀ (s : State) (w : Word) (rest : List HostEvent), s.cfg.Ok → s.control = .idle →
    s.pending = .write s.cfg.portBase 32 w :: rest → (∀ row ∈ opcodeTable, ¬ row.Selects w) →
    ∃ status : Word, step s = .next { s with pending := rest, status := status } ∧
      statusCode status = 5 ∧ ∀ k, 4 ≤ k → status.getLsbD k = s.status.getLsbD k)

/-- Words written out from R65 and R67 decode to the commands they stand for, one or more per command. -/
def Obligations.SampleWordsDecode : Prop :=
  decode 0b00000000000000000000000001000001#32 = .ok (.pwmDeriveTin 4) ∧
  decode 0b00000000000000000000000000100010#32 = .ok (.pwmSetConfig 2) ∧
  decode 0b00000000000000000000000101000011#32 = .ok (.pwmSetEnable 4 true) ∧
  decode 0b00000000000000000000000000001000#32 = .ok .mmcGetBaseClock ∧
  decode 0b00000000000000000000000000001001#32 = .ok .mmcSetClock ∧
  decode 0b00000000000000000000000000001010#32 = .ok .mmcProgramDelay ∧
  decode 0b00000000000000000000000100001011#32 = .ok (.mmcSelectClockMode true)

/-! ### The command port, steps and reset -/

/-- R26: a `CMD` write of an idle block decodes the word and executes the command in the same step (an
illegal word has the effect of R69); of a faulted block it is ignored; a read of `CMD` returns 0. -/
def Obligations.StepRunsTheWrittenCommand : Prop :=
  ∀ (s : State) (w : Word) (rest : List HostEvent), s.cfg.Ok →
    (∀ i, s.control = .idle → s.pending = .write s.cfg.portBase 32 w :: rest → decode w = .ok i →
      step s = exec i { s with pending := rest }) ∧
    (∀ e, s.control = .idle → s.pending = .write s.cfg.portBase 32 w :: rest → decode w = .error e →
      step s = .next { s with pending := rest, status := setCode s.status 5 }) ∧
    (s.control = .faulted → s.pending = .write s.cfg.portBase 32 w :: rest →
      step s = .next { s with pending := rest }) ∧
    (s.pending = .read s.cfg.portBase 32 :: rest →
      step s = .next { s with pending := rest, lastRead := some 0 })

/-- R150: a faulted block, whatever it is asked short of a reset, stays faulted and keeps everything but the
`ARG` registers that the host writes and the value a host read returns. -/
def Obligations.FaultedBlockOnlyServesReadsAndArgWrites : Prop :=
  ∀ s t : State, s.control = .faulted → s.NoResetNext → step s = .next t →
    t = { s with arg := t.arg, lastRead := t.lastRead, pending := t.pending }

/-- R21: a 32-bit host read at each of the seven offsets returns the register there and changes nothing
else, in any control state. -/
def Obligations.PortReadReturnsTheRegister : Prop :=
  ∀ (s : State) (rest : List HostEvent) (offset value : Word), s.cfg.Ok →
    (offset, value) ∈ [(0x00#32, 0#32), (0x04#32, s.arg[0]), (0x08#32, s.arg[1]), (0x0C#32, s.arg[2]),
      (0x10#32, s.arg[3]), (0x14#32, s.result), (0x18#32, s.status)] →
    s.pending = .read (s.cfg.portBase + offset) 32 :: rest →
    step s = .next { s with pending := rest, lastRead := some value }

/-- R21, R22, R150: a host write stores in the `ARG` register at its offset, and `RESULT` and `STATUS` ignore
it, in any control state. -/
def Obligations.PortWriteStoresOnlyInArg : Prop :=
  ∀ (s : State) (rest : List HostEvent) (v : Word), s.cfg.Ok →
    (∀ i : Fin 4, s.pending = .write (s.cfg.portBase + BitVec.ofNat 32 (4 + 4 * i.val)) 32 v :: rest →
      step s = .next { s with pending := rest, arg := s.arg.set i.val v }) ∧
    (∀ offset : Word, offset = 0x14#32 ∨ offset = 0x18#32 →
      s.pending = .write (s.cfg.portBase + offset) 32 v :: rest → step s = .next { s with pending := rest })

/-- R53, R54, R56: a host access of another width, or misaligned, or at none of the seven offsets, is refused
under a name of its own: there is no next state. -/
def Obligations.DisallowedHostAccessIsRefused : Prop :=
  ∀ (s : State) (rest : List HostEvent) (addr : Word) (bits : Nat) (v : Word),
    s.pending = .read addr bits :: rest ∨ s.pending = .write addr bits v :: rest →
    (bits ≠ 32 → step s = .refused .hostAccessWidth) ∧
    (bits = 32 → addr.toNat % 4 ≠ 0 → step s = .refused .hostAccessMisaligned) ∧
    (bits = 32 → addr.toNat % 4 = 0 → (∀ k < 7, addr ≠ s.cfg.portBase + BitVec.ofNat 32 (4 * k)) →
      step s = .refused .hostAccessNoRegister)

/-- R53, R54, R56, R145: a step answers a next state exactly if the next event is allowed; no command and no
state of the block stops the machine. -/
def Obligations.StepAnswersExactlyTheAllowedEvents : Prop :=
  ∀ s : State, (∃ t, step s = .next t) ↔ ∀ e, s.pending.head? = some e → e.Allowed s.cfg

/-- R170: after a reset that samples the configuration `c`, every piece of the spec's state has the value of
the table; the collaborator is not reset. -/
def Obligations.ResetLeavesTheStatedValues : Prop :=
  ∀ (s : State) (c : Config) (rest : List HostEvent), c.Ok → s.pending = .reset c :: rest →
    ∃ t, step s = .next t ∧ t.control = .idle ∧ (∀ i : Fin 4, t.arg[i.val] = 0) ∧ t.result = 0 ∧
      t.status = 0 ∧ t.pwmClk = .unresolved ∧ t.mmcClk = .unresolved ∧
      t.tcfg0 = c.resets.tcfg0 ∧ t.tcfg1 = c.resets.tcfg1 ∧ t.tcon = c.resets.tcon ∧
      t.tcntb = c.resets.tcntb ∧ t.tcmpb = c.resets.tcmpb ∧
      t.clksel = c.resets.clksel ∧ t.clkdly = c.resets.clkdly ∧
      t.cfg = c ∧ t.trace = [] ∧ t.collab = s.collab

/-- R170, R171: State.reset has the stated values and waits: a step with nothing pending changes nothing.
The target registers' values there are the model's (log entry 5) and are not stated. -/
def Obligations.ResetStateIsIdleAndWaits : Prop :=
  State.reset.control = .idle ∧ (∀ i : Fin 4, State.reset.arg[i.val] = 0) ∧ State.reset.result = 0 ∧
  State.reset.status = 0 ∧ State.reset.pwmClk = .unresolved ∧ State.reset.mmcClk = .unresolved ∧
  State.reset.trace = [] ∧ step State.reset = .next State.reset

/-- R172: no event but a reset leaves `Faulted`, empties a cache or changes the configuration; a reset leaves
`Faulted`, empties both caches and takes the configuration that it samples. -/
def Obligations.OnlyResetClearsFaultCachesConfiguration : Prop :=
  (∀ s t : State, s.NoResetNext → step s = .next t →
    (s.control = .faulted → t.control = .faulted) ∧
    (∀ h, s.pwmClk = .resolved h → t.pwmClk = .resolved h) ∧
    (∀ h, s.mmcClk = .resolved h → t.mmcClk = .resolved h) ∧
    t.cfg = s.cfg) ∧
  (∀ (s t : State) (c : Config), s.pending.head? = some (.reset c) → step s = .next t →
    t.control = .idle ∧ t.pwmClk = .unresolved ∧ t.mmcClk = .unresolved ∧ t.cfg = c)

/-! ### Invariants -/

/-- The invariant of the block: the configuration is an allowed one, `STATUS` agrees with the control state
and is one of nine words (R24, R146, R148, R150), every access of the trace is at a target register (R52),
and each cache holds a handle that exactly one successful resolution gave (R38, R39, R121). Every step keeps
it, resets included. -/
def Obligations.StepKeepsTheBlockInvariant : Prop :=
  ∀ s t : State, s.Inv → step s = .next t → t.Inv

/-- State.reset meets the invariant. -/
def Obligations.ResetStateMeetsTheBlockInvariant : Prop := State.reset.Inv

/-- R174: a host can never leave a channel armed through the port: with no update-pending bit of `tcon` set,
no step short of a reset leaves one set. -/
def Obligations.StepLeavesNoChannelArmed : Prop :=
  ∀ s t : State, s.cfg.Ok → s.Unarmed → s.NoResetNext → step s = .next t → t.Unarmed

/-! ### PWM engine -/

/-- R85: each PWM command on a channel of 5 or more sets `CODE` to 4 and does nothing else. -/
def Obligations.UnsupportedChannelOnlySetsCode : Prop :=
  ∀ (s : State) (ch : Nat) (enable : Bool), 5 ≤ ch →
    exec (.pwmDeriveTin ch) s = .next { s with status := setCode s.status 4 } ∧
    exec (.pwmSetConfig ch) s = .next { s with status := setCode s.status 4 } ∧
    exec (.pwmSetEnable ch enable) s = .next { s with status := setCode s.status 4 }

/-- R89, R90, R99: `PWM.DERIVE_TIN` on an existing channel, under both policies. With the clock there, it
returns the derived rate and changes nothing but what the derivation changes; with the clock not found, it
sets `CODE` to 3 and leaves only the failed `ClkResolve` event. -/
def Obligations.PwmDeriveTinMeaning : Prop :=
  ∀ (s : State) (ch : Channel),
    (∀ h, s.PwmClockIs h →
      exec (.pwmDeriveTin ch.val) s =
        .next { s.afterDerive h with
          result := s.derivedRate ch s.arg[0]
          status := setCode s.status 0 }) ∧
    (s.PwmClockNotFound →
      exec (.pwmDeriveTin ch.val) s =
        .next { s.afterNotFound s.cfg.pwmParentClkName with status := setCode s.status 3 })

/-- R88, in natural numbers: the first of the dividers 2, 4, 8, 16 whose quotient is below the frequency
gives the rate, divided or, under `ShiftByDiv`, shifted; with none, the rate is a sixteenth of the parent. -/
def Obligations.TinSearchPicksFirstQualifyingDivider : Prop :=
  ∀ (c : Config) (freq parent : Word),
    (∀ d ∈ [2, 4, 8, 16], parent.toNat / (d * 65536) < freq.toNat →
      (∀ d' ∈ [2, 4, 8, 16], d' < d → freq.toNat ≤ parent.toNat / (d' * 65536)) →
      (tinSearch c freq parent).toNat =
        match c.searchReturn with
        | .divide => parent.toNat / d
        | .shiftByDiv => parent.toNat / 2 ^ d) ∧
    ((∀ d ∈ [2, 4, 8, 16], freq.toNat ≤ parent.toNat / (d * 65536)) →
      (tinSearch c freq parent).toNat = parent.toNat / 16)

/-- R29, R30, R87, in natural numbers: the fixed-readback rate is the parent rate divided by the prescaler
field plus 1, then by the power of two of the mux field; neither divisor is 0. -/
def Obligations.FixedReadbackRateDividesTwice : Prop :=
  ∀ (c : Config) (ch : Channel) (parent v0 v1 : Word), c.Ok →
    prescalerDiv c ch v0 ≠ 0#32 ∧ muxPreDiv c ch v1 ≠ 0#32 ∧
    (fixedReadbackRate c ch parent v0 v1).toNat =
      parent.toNat /
          (v0.toNat / 2 ^ (if ch.val < 2 then c.prescalerLsbLow else c.prescalerLsbHigh)
            % 2 ^ c.prescalerWidth + 1) /
        2 ^ (v1.toNat / 2 ^ c.muxLsb[ch.val] % 16)

/-- R177: under `FixedReadback` and `Plain`, a `PWM.DERIVE_TIN` or a `PWM.SET_CONFIG` that gets past clock
resolution leaves `tcfg0` and `tcfg1` at 0, and the derived rate is the parent rate. -/
def Obligations.PlainReadbackLosesTheHostsDivider : Prop :=
  ∀ (s : State) (ch : Channel) (h : Handle), s.cfg.tinPolicy = .fixedReadback →
    s.cfg.tcfgReadback = .plain → s.PwmClockIs h →
    (∃ t, exec (.pwmDeriveTin ch.val) s = .next t ∧ t.tcfg0 = 0#32 ∧ t.tcfg1 = 0#32 ∧ t.result = s.pwmRate) ∧
    (∀ freq, s.derivedRate ch freq = s.pwmRate) ∧
    (¬ outOfRange s.arg[0] s.arg[1] → ¬ s.arg[0] < s.arg[1] →
      ∃ t, exec (.pwmSetConfig ch.val) s = .next t ∧ t.tcfg0 = 0#32 ∧ t.tcfg1 = 0#32)

/-- R91, R146, R151: the checks of `PWM.SET_CONFIG` before the derivation, in their order; each sets its code
and leaves everything else (for `ClockResolutionError`: all but the failed `ClkResolve` event). -/
def Obligations.PwmSetConfigChecksInOrder : Prop :=
  ∀ (s : State) (ch : Channel),
    (s.arg[0] = 0#32 ∨ 1000000000#32 < s.arg[0] ∨ 1000000000#32 < s.arg[1] →
      exec (.pwmSetConfig ch.val) s = .next { s with status := setCode s.status 1 }) ∧
    (¬ (s.arg[0] = 0#32 ∨ 1000000000#32 < s.arg[0] ∨ 1000000000#32 < s.arg[1]) → s.arg[0] < s.arg[1] →
      exec (.pwmSetConfig ch.val) s = .next { s with status := setCode s.status 2 }) ∧
    (¬ (s.arg[0] = 0#32 ∨ 1000000000#32 < s.arg[0] ∨ 1000000000#32 < s.arg[1]) → ¬ s.arg[0] < s.arg[1] →
      s.PwmClockNotFound →
      exec (.pwmSetConfig ch.val) s =
        .next { s.afterNotFound s.cfg.pwmParentClkName with status := setCode s.status 3 })

/-- R91, R92, R93, R99: `PWM.SET_CONFIG` where no error and no fault applies. The reload follows the counter
variant, the compare value is inverted and saturated, the handshake is done in two writes, the trace is in
the stated order, and nothing else changes. -/
def Obligations.PwmSetConfigMeaning : Prop :=
  ∀ (s : State) (ch : Channel) (h : Handle) (tin tns q tcnt tcmp t1 t2 : Word),
    ¬ (s.arg[0] = 0#32 ∨ 1000000000#32 < s.arg[0] ∨ 1000000000#32 < s.arg[1]) → ¬ s.arg[0] < s.arg[1] →
    s.PwmClockIs h →
    tin = s.derivedRate ch (1000000000#32 / s.arg[0]) → tin ≠ 0#32 →
    tns = 1000000000#32 / tin → tns ≠ 0#32 →
    q = s.arg[0] / tns →
    ¬ (s.cfg.counterVariant = .fromZero ∧ s.cfg.counterUnderflow = .fault ∧ q = 0#32) →
    tcnt = (match s.cfg.counterVariant with
      | .fromZero => if q = 0#32 then 0xFFFFFFFF#32 else q - 1#32
      | .plain => q) →
    tcmp = tcnt - (if s.arg[1] / tns ≤ tcnt then s.arg[1] / tns else tcnt) →
    t1 = s.tcon ||| 1#32 <<< s.cfg.tconBit .update ch ||| 1#32 <<< s.cfg.tconBit .autoReload ch →
    t2 = t1 &&& ~~~(1#32 <<< s.cfg.tconBit .update ch) →
    exec (.pwmSetConfig ch.val) s =
      .next { s.afterDerive h with
        tcntb := s.tcntb.set ch.val tcnt
        tcmpb := s.tcmpb.set ch.val tcmp
        tcon := t2
        status := setCode s.status 0
        trace := s.trace ++ s.deriveEvents h ++
          [.memWrite (s.cfg.pwmBase + BitVec.ofNat 32 (0x0C + 12 * ch.val)) tcnt,
           .memWrite (s.cfg.pwmBase + BitVec.ofNat 32 (0x10 + 12 * ch.val)) tcmp,
           .memRead (s.cfg.pwmBase + 0x08#32) s.tcon,
           .memWrite (s.cfg.pwmBase + 0x08#32) t1,
           .memWrite (s.cfg.pwmBase + 0x08#32) t2] }

/-- R14, R148, R150: `PWM.SET_CONFIG` faults at exactly the three points, each with its reason; the block is
then faulted, `FAULT` is 1 and `CODE` is 6, and only what the derivation changed has changed besides. No
other command touches the control state, `FAULT` or `FREASON`. -/
def Obligations.OnlySetConfigFaultsAtThreePoints : Prop :=
  (∀ (s : State) (ch : Channel) (h : Handle) (tin : Word),
    ¬ outOfRange s.arg[0] s.arg[1] → ¬ s.arg[0] < s.arg[1] → s.PwmClockIs h →
    tin = s.derivedRate ch (1000000000#32 / s.arg[0]) →
    ∀ reason : BitVec 4,
      ((tin = 0#32 ∧ reason = 1) ∨
       (1000000000#32 < tin ∧ reason = 2) ∨
       (tin ≠ 0#32 ∧ ¬ 1000000000#32 < tin ∧ s.cfg.counterVariant = .fromZero ∧
         s.cfg.counterUnderflow = .fault ∧ s.arg[0] / (1000000000#32 / tin) = 0#32 ∧ reason = 3)) →
      ∃ status : Word,
        exec (.pwmSetConfig ch.val) s =
          .next { s.afterDerive h with control := .faulted, status := status } ∧
        statusFault status = true ∧ statusFreason status = reason ∧ statusCode status = 6 ∧
        ∀ k, 8 ≤ k → k < 31 → status.getLsbD k = s.status.getLsbD k) ∧
  (∀ (i : Instr) (s t : State), (∀ ch, i ≠ .pwmSetConfig ch) → exec i s = .next t →
    t.control = s.control ∧ statusFault t.status = statusFault s.status ∧
      statusFreason t.status = statusFreason s.status)

/-- R151: every command reports the first applicable outcome of its order, and a reason with code 6 only; an
illegal word reports 5. -/
def Obligations.OneOutcomeInOrderOfPrecedence : Prop :=
  (∀ (i : Instr) (s t : State), exec i s = .next t →
    statusCode t.status = (expectedOutcome i s).1 ∧
    ∀ reason, (expectedOutcome i s).2 = some reason → statusFreason t.status = reason) ∧
  (∀ (w : Word) (s t : State) (e : IllegalWord), s.control = .idle → decode w = .error e →
    launch w s = .next t → statusCode t.status = 5)

/-- R149: an errored command has changed only `CODE`, and for `ClockResolutionError` made the one failed
`ClkResolve` event (the collaborator has then used up an answer). -/
def Obligations.ErroredCommandChangesOnlyCode : Prop :=
  ∀ (i : Instr) (s t : State), exec i s = .next t →
    statusCode t.status ≠ 0 → statusCode t.status ≠ 6 →
    (∀ k, 4 ≤ k → t.status.getLsbD k = s.status.getLsbD k) ∧
    (t = { s with status := t.status } ∨
      (statusCode t.status = 3 ∧ ∃ name, t = { s.afterNotFound name with status := t.status }))

/-- R95: after every successful `PWM.SET_CONFIG` the compare value is at most the reload value. -/
def Obligations.CompareNeverExceedsReload : Prop :=
  ∀ (s t : State) (ch : Channel), exec (.pwmSetConfig ch.val) s = .next t →
    statusCode t.status = 0 → t.tcmpb[ch.val].toNat ≤ t.tcntb[ch.val].toNat

/-- R92, R93, in natural numbers: the compare value written is the reload minus the raw compare saturated at
the reload, and 0 where the raw compare exceeds the reload. -/
def Obligations.CompareIsInvertedAndSaturated : Prop :=
  ∀ (s t : State) (ch : Channel) (raw : Nat), exec (.pwmSetConfig ch.val) s = .next t →
    statusCode t.status = 0 →
    raw = s.arg[1].toNat /
      (1000000000 / (s.derivedRate ch (1000000000#32 / s.arg[0])).toNat) →
    t.tcmpb[ch.val].toNat = t.tcntb[ch.val].toNat - min raw t.tcntb[ch.val].toNat ∧
    (t.tcntb[ch.val].toNat < raw → t.tcmpb[ch.val] = 0)

/-- R94: a successful `PWM.SET_CONFIG` has made two writes to `tcon`, in order: the first with the
update-pending and the auto-reload bit set, the second with only the update-pending bit cleared again. -/
def Obligations.HandshakeArmsThenDisarms : Prop :=
  ∀ (s t : State) (ch : Channel), s.cfg.Ok → exec (.pwmSetConfig ch.val) s = .next t →
    statusCode t.status = 0 →
    ∃ (before : List Event) (t1 t2 : Word),
      t.trace = before ++ [.memWrite (s.cfg.pwmBase + 0x08#32) t1, .memWrite (s.cfg.pwmBase + 0x08#32) t2] ∧
      t.tcon = t2 ∧
      t1.getLsbD (s.cfg.tconBit .update ch) = true ∧ t1.getLsbD (s.cfg.tconBit .autoReload ch) = true ∧
      t2.getLsbD (s.cfg.tconBit .update ch) = false ∧
      ∀ k, k ≠ s.cfg.tconBit .update ch → t2.getLsbD k = t1.getLsbD k

/-- R32: a command changes no bit of `tcon` but the start, update and auto-reload bits of the channel that it
names. -/
def Obligations.OnlyTheNamedChannelsTconBitsChange : Prop :=
  ∀ (i : Instr) (s t : State) (k : Nat), exec i s = .next t →
    (∀ (ch : Channel) (r : TconRole), channelOf i = some ch.val → k ≠ s.cfg.tconBit r ch) →
    t.tcon.getLsbD k = s.tcon.getLsbD k

/-- R96, about the command's meaning: of two successive applications of the meaning of `PWM.SET_CONFIG` with the
same operands and configuration, to which the collaborator gives the same parent rate, the second makes the same
target-register writes as the first. What the collaborator will answer, what is pending and what was last read
may differ in between. Where the first ends in a fault, the block ignores a second `CMD` write (R150), and this
says nothing about what the block then does. -/
def Obligations.RepeatedSetConfigWritesTheSame : Prop :=
  ∀ (s t t' u : State) (ch : Nat) (h : Handle), s.PwmClockIs h →
    exec (.pwmSetConfig ch) s = .next t →
    t' = { t with collab := t'.collab, pending := t'.pending, lastRead := t'.lastRead } →
    t'.collab.nextRate = s.pwmRate →
    exec (.pwmSetConfig ch) t' = .next u →
    ∃ writes, targetWrites t.trace = targetWrites s.trace ++ writes ∧
      targetWrites u.trace = targetWrites t'.trace ++ writes

/-- R98: `PWM.SET_ENABLE` on an existing channel reads `tcon`, sets or clears the start bit, writes it back,
and changes nothing else. -/
def Obligations.PwmSetEnableMeaning : Prop :=
  ∀ (s : State) (ch : Channel) (enable : Bool) (v : Word),
    v = (if enable then s.tcon ||| 1#32 <<< s.cfg.tconBit .start ch
      else s.tcon &&& ~~~(1#32 <<< s.cfg.tconBit .start ch)) →
    exec (.pwmSetEnable ch.val enable) s =
      .next { s with
        tcon := v
        status := setCode s.status 0
        trace := s.trace ++ [.memRead (s.cfg.pwmBase + 0x08#32) s.tcon,
          .memWrite (s.cfg.pwmBase + 0x08#32) v] }

/-! ### MMC engine -/

/-- R120, R122, R128: `MMC.GET_BASE_CLOCK`. With the clock there it reads the rate and returns half of it;
with the clock not found it sets `CODE` to 3 and leaves only the failed `ClkResolve` event. -/
def Obligations.MmcGetBaseClockMeaning : Prop :=
  ∀ (s : State) (rate : Word), rate = (collabAfterResolve s.mmcClk s.collab).nextRate →
    (∀ h, s.MmcClockIs h →
      ∃ half : Word, half.toNat = rate.toNat / 2 ∧
        exec .mmcGetBaseClock s =
          .next { s with
            mmcClk := .resolved h
            result := half
            status := setCode s.status 0
            collab := (collabAfterResolve s.mmcClk s.collab).afterRate
            trace := s.trace ++ resolveEvents s.mmcClk (mmcClkName s.cfg) s.collab ++
              [.clkGetRate h rate] }) ∧
    (s.MmcClockNotFound →
      exec .mmcGetBaseClock s =
        .next { s.afterNotFound (mmcClkName s.cfg) with status := setCode s.status 3 })

/-- R120, R123, R128: `MMC.SET_CLOCK`. With the clock there it disables it, requests the rate of `ARG[0]` as
it stands, enables it, and returns the answer unchecked; with the clock not found it sets `CODE` to 3 and
leaves only the failed `ClkResolve` event. -/
def Obligations.MmcSetClockMeaning : Prop :=
  ∀ (s : State) (answer : Word), answer = (collabAfterResolve s.mmcClk s.collab).nextSetRate →
    (∀ h, s.MmcClockIs h →
      exec .mmcSetClock s =
        .next { s with
          mmcClk := .resolved h
          result := answer
          status := setCode s.status 0
          collab := (collabAfterResolve s.mmcClk s.collab).afterSetRate
          trace := s.trace ++ resolveEvents s.mmcClk (mmcClkName s.cfg) s.collab ++
            [.clkDisable h, .clkSetRate h s.arg[0] answer, .clkEnable h] }) ∧
    (s.MmcClockNotFound →
      exec .mmcSetClock s =
        .next { s.afterNotFound (mmcClkName s.cfg) with status := setCode s.status 3 })

/-- R124, R128: `MMC.PROGRAM_DELAY` writes the packed word of the four operands to `CLKDLY`, in one write
without a read, and changes nothing else. -/
def Obligations.MmcProgramDelayMeaning : Prop :=
  ∀ (s : State) (w : Word), w = packDelay s.cfg s.arg[0] s.arg[1] s.arg[2] s.arg[3] →
    exec .mmcProgramDelay s =
      .next { s with
        clkdly := w
        status := setCode s.status 0
        trace := s.trace ++ [.memWrite (s.cfg.mmcBase + 0x114#32) w] }

/-- R77, bit by bit: the `Positional` clock-delay word holds `drive_delay` [7:0], `sample_delay` [15:8],
`drive_shift` [17:16], `sample_shift` at `CLKDLY_SS_LSB` (24 by default), and 0 elsewhere. -/
def Obligations.PositionalDelayWordBits : Prop :=
  ∀ (c : Config) (dd ds sd ss : Word) (k : Nat), c.Ok → c.clkdlyLayout = .positional →
    (packDelay c dd ds sd ss).getLsbD k =
      if k < 8 then dd.getLsbD k
      else if k < 16 then sd.getLsbD (k - 8)
      else if k < 18 then ds.getLsbD (k - 16)
      else if c.clkdlySsLsb ≤ k ∧ k < c.clkdlySsLsb + 2 then ss.getLsbD (k - c.clkdlySsLsb)
      else false

/-- R78, bit by bit: the `SourceLiteral` clock-delay word holds `drive_delay` [7:0], `drive_shift` [15:8],
`sample_shift` [17:16], and 0 elsewhere; `sample_delay` does not appear. -/
def Obligations.SourceLiteralDelayWordBits : Prop :=
  ∀ (c : Config) (dd ds sd ss : Word) (k : Nat), c.clkdlyLayout = .sourceLiteral →
    (packDelay c dd ds sd ss).getLsbD k =
      if k < 8 then dd.getLsbD k
      else if k < 16 then ds.getLsbD (k - 8)
      else if k < 18 then ss.getLsbD (k - 16)
      else false

/-- R79, R125, R128: `MMC.SELECT_CLOCK_MODE` writes 0x01000000 (boosted) or 0x03000000 (normal) to `CLKSEL`,
returns the same word, and changes nothing else. -/
def Obligations.MmcSelectClockModeMeaning : Prop :=
  ∀ (s : State) (boosted : Bool) (w : Word), w = (if boosted then 0x01000000#32 else 0x03000000#32) →
    exec (.mmcSelectClockMode boosted) s =
      .next { s with
        clksel := w
        result := w
        status := setCode s.status 0
        trace := s.trace ++ [.memWrite (s.cfg.mmcBase + 0x09C#32) w] }

/-- R126: the two clock-select words differ in bit 25 only, and both have every bit below 24 clear. -/
def Obligations.ClockModesDifferOnlyInRatio : Prop :=
  ∀ (s t u : State), exec (.mmcSelectClockMode true) s = .next t →
    exec (.mmcSelectClockMode false) s = .next u →
    t.clksel ^^^ u.clksel = 0x02000000#32 ∧
    (∀ k < 24, t.clksel.getLsbD k = false ∧ u.clksel.getLsbD k = false) ∧
    t.clksel.extractLsb' 24 8 = 1 ∧ u.clksel.extractLsb' 24 8 = 3

/-! ### Whole-machine rules over all commands -/

/-- R127: the MMC commands leave every PWM register and `pwm_clk` and access no PWM register; the PWM commands
leave `CLKSEL`, `CLKDLY` and `mmc_clk` and access neither register. -/
def Obligations.EnginesAreIndependent : Prop :=
  ∀ (i : Instr) (s t : State), exec i s = .next t →
    (isPwm i = false → t.tcfg0 = s.tcfg0 ∧ t.tcfg1 = s.tcfg1 ∧ t.tcon = s.tcon ∧ t.tcntb = s.tcntb ∧
      t.tcmpb = s.tcmpb ∧ t.pwmClk = s.pwmClk) ∧
    (isPwm i = true → t.clksel = s.clksel ∧ t.clkdly = s.clkdly ∧ t.mmcClk = s.mmcClk) ∧
    ∃ events, t.trace = s.trace ++ events ∧ ∀ e ∈ events,
      e.OnlyAt s.cfg (if isPwm i then pwmRegs else [.clksel, .clkdly])

/-- The frame of the target registers (R50, R52): a command leaves every target register that it is not
listed to write, those of other channels among them. -/
def Obligations.CommandsWriteOnlyTheirRegisters : Prop :=
  ∀ (i : Instr) (s t : State) (r : TargetReg), exec i s = .next t → ¬ MayWrite i r → t.reg r = s.reg r

/-- R121: a command calls `ClkResolve` at most once, and not at all with its handle cached; with the MMC
handle not cached, a command that needs it tries once. -/
def Obligations.ClkResolveIsCalledAtMostOnce : Prop :=
  ∀ (i : Instr) (s t : State), exec i s = .next t →
    ∃ events, t.trace = s.trace ++ events ∧ events.countP Event.isResolve ≤ 1 ∧
      (∀ h, isPwm i = false → s.mmcClk = .resolved h → events.countP Event.isResolve = 0) ∧
      (∀ h, isPwm i = true → s.pwmClk = .resolved h → events.countP Event.isResolve = 0) ∧
      (i = .mmcGetBaseClock ∨ i = .mmcSetClock → s.mmcClk = .unresolved →
        events.countP Event.isResolve = 1)

/-- R181: the number of events of each command is bounded as listed, exact where the list is exact; an
illegal word makes none. -/
def Obligations.CommandsMakeBoundedEvents : Prop :=
  (∀ (i : Instr) (s t : State), exec i s = .next t →
    ∃ events, t.trace = s.trace ++ events ∧ events.length ≤ maxEvents i ∧
      (∀ ch : Channel, ∀ enable, i = .pwmSetEnable ch.val enable → events.length = 2) ∧
      (i = .mmcProgramDelay ∨ (∃ b, i = .mmcSelectClockMode b) → events.length = 1)) ∧
  (∀ (w : Word) (s t : State) (e : IllegalWord), s.control = .idle → decode w = .error e →
    launch w s = .next t → t.trace = s.trace)

/-- R22: an `ARG` register stays until the host writes it or the block is reset; no command writes one. -/
def Obligations.ArgStaysUntilTheHostWritesIt : Prop :=
  ∀ (s t : State) (i : Fin 4), s.cfg.Ok → s.NoResetNext →
    (∀ v, s.pending.head? ≠ some (.write (s.cfg.portBase + BitVec.ofNat 32 (4 + 4 * i.val)) 32 v)) →
    step s = .next t → t.arg[i.val] = s.arg[i.val]

/-- R23: `RESULT` is changed by no command that returns no value and by none that ends in an error or a
fault. -/
def Obligations.ResultChangesOnlyOnSuccess : Prop :=
  ∀ (i : Instr) (s t : State), exec i s = .next t →
    (returnsValue i = false ∨ statusCode t.status ≠ 0) → t.result = s.result

/-- R24: no command writes a reserved bit of `STATUS`; only a fault writes `FREASON` and `FAULT`; `FAULT` once
set stays set; `CODE` is written 0 to 6. -/
def Obligations.StatusFieldsAreWrittenAsStated : Prop :=
  ∀ (i : Instr) (s t : State), exec i s = .next t →
    (∀ k, 8 ≤ k → k < 31 → t.status.getLsbD k = s.status.getLsbD k) ∧
    (statusCode t.status ≠ 6 → statusFreason t.status = statusFreason s.status ∧
      statusFault t.status = statusFault s.status) ∧
    (statusFault s.status = true → statusFault t.status = true) ∧
    (statusCode t.status).toNat ≤ 6

/-- R55: byte k of a register holds bits [8k+7:8k], and the four bytes make up the word. -/
def Obligations.RegisterBytesAreLittleEndian : Prop :=
  ∀ (w : Word), (∀ (k : Fin 4) (j : Nat), j < 8 → (byteOf w k).getLsbD j = w.getLsbD (8 * k.val + j)) ∧
    w = byteOf w 3 ++ byteOf w 2 ++ byteOf w 1 ++ byteOf w 0

/-! ### Assembler -/

/-- R73: the four pseudo-instructions expand to one command each, with the stated words. -/
def Obligations.PseudoInstructionsAssembleToTheirCommands : Prop :=
  ∀ (c : Config) (ch : Nat), ch ≤ 15 →
    assemble c (.enable ch) = assemble c (.setEnable ch 1) ∧
    assemble c (.enable ch) =
      some [.write c.portBase 32 (0x00000103#32 ||| BitVec.ofNat 32 ch <<< 4)] ∧
    assemble c (.disable ch) = assemble c (.setEnable ch 0) ∧
    assemble c (.disable ch) =
      some [.write c.portBase 32 (0x00000003#32 ||| BitVec.ofNat 32 ch <<< 4)] ∧
    assemble c .modeBoosted = assemble c (.selectClockMode 1) ∧
    assemble c .modeBoosted = some [.write c.portBase 32 0x0000010B#32] ∧
    assemble c .modeNormal = assemble c (.selectClockMode 0) ∧
    assemble c .modeNormal = some [.write c.portBase 32 0x0000000B#32]

/-- R72: on an idle block, the host accesses that a command line assembles to write its operands into the
`ARG` registers and then run the command. -/
def Obligations.AssembledLineRunsItsCommand : Prop :=
  ∀ (s : State) (ch a b d e : Nat) (events : List HostEvent), s.cfg.Ok → s.control = .idle →
    (assemble s.cfg (.deriveTin ch a) = some events →
      core.run 2 { s with pending := events } =
        exec (.pwmDeriveTin ch) { s with pending := [], arg := s.arg.set 0 (BitVec.ofNat 32 a) }) ∧
    (assemble s.cfg (.setConfig ch a b) = some events →
      core.run 3 { s with pending := events } =
        exec (.pwmSetConfig ch) { s with
          pending := [], arg := (s.arg.set 0 (BitVec.ofNat 32 a)).set 1 (BitVec.ofNat 32 b) }) ∧
    (assemble s.cfg (.setEnable ch a) = some events →
      core.run 1 { s with pending := events } =
        exec (.pwmSetEnable ch (a = 1)) { s with pending := [] }) ∧
    (assemble s.cfg .getBaseClock = some events →
      core.run 1 { s with pending := events } = exec .mmcGetBaseClock { s with pending := [] }) ∧
    (assemble s.cfg (.setClock a) = some events →
      core.run 2 { s with pending := events } =
        exec .mmcSetClock { s with pending := [], arg := s.arg.set 0 (BitVec.ofNat 32 a) }) ∧
    (assemble s.cfg (.programDelay a b d e) = some events →
      core.run 5 { s with pending := events } =
        exec .mmcProgramDelay { s with
          pending := []
          arg := (((s.arg.set 0 (BitVec.ofNat 32 a)).set 1 (BitVec.ofNat 32 b)).set 2
            (BitVec.ofNat 32 d)).set 3 (BitVec.ofNat 32 e) }) ∧
    (assemble s.cfg (.selectClockMode a) = some events →
      core.run 1 { s with pending := events } =
        exec (.mmcSelectClockMode (a = 1)) { s with pending := [] })
end

