-- ==== Sys2Proof/Laws/Port.lean ====
section
/-! SUPPORT. Where a host access goes (10_state.md R21; 20_memory.md R53, R54, R56). -/

namespace Sys2Proof.Machine

/-- An aligned 32-bit access at an offset of the port. -/
theorem portAccess_offset (c : Config) (hb : c.portBase.toNat % 4 = 0) (k : Nat) :
    portAccess c (c.portBase + BitVec.ofNat 32 (4 * k)) 32 =
      match portRegAt (BitVec.ofNat 32 (4 * k)) with
      | some r => .ok r
      | none => .error .hostAccessNoRegister := by
  have ha : (c.portBase + BitVec.ofNat 32 (4 * k)).toNat % 4 = 0 := by
    simp only [BitVec.toNat_add, BitVec.toNat_ofNat]; omega
  have ho : c.portBase + BitVec.ofNat 32 (4 * k) - c.portBase = BitVec.ofNat 32 (4 * k) := by
    rw [BitVec.add_comm, BitVec.add_sub_cancel]
  rw [portAccess, if_neg (by decide), if_neg (by rw [ha]; decide), ho] <;> rfl

/-- The port register of an offset 4k, k below 7 (10_state.md R21). -/
def portRegOf : Nat → PortReg
  | 0 => .cmd
  | 1 => .arg 0
  | 2 => .arg 1
  | 3 => .arg 2
  | 4 => .arg 3
  | 5 => .result
  | _ => .status

/-- The register at an offset, exactly if the offset is one of the seven (10_state.md R21). -/
theorem portRegAt_eq_some (o : Word) (r : PortReg) :
    portRegAt o = some r ↔ ∃ k < 7, o = BitVec.ofNat 32 (4 * k) ∧ r = portRegOf k := by
  constructor
  · intro h
    have back : ∀ n, o.toNat = n → o = BitVec.ofNat 32 n := fun n hn => by rw [← hn]; simp
    unfold portRegAt at h
    split at h <;> simp only [Option.some.injEq, reduceCtorEq] at h
    · exact ⟨0, by omega, back _ ‹_›, h.symm⟩
    · exact ⟨1, by omega, back _ ‹_›, h.symm⟩
    · exact ⟨2, by omega, back _ ‹_›, h.symm⟩
    · exact ⟨3, by omega, back _ ‹_›, h.symm⟩
    · exact ⟨4, by omega, back _ ‹_›, h.symm⟩
    · exact ⟨5, by omega, back _ ‹_›, h.symm⟩
    · exact ⟨6, by omega, back _ ‹_›, h.symm⟩
  · rintro ⟨k, hk, rfl, rfl⟩
    exact (by decide : ∀ k : Fin 7, portRegAt (BitVec.ofNat 32 (4 * k.val)) = some (portRegOf k.val))
      ⟨k, hk⟩

/-- A host access that reaches a register. -/
theorem portAccess_ok {c : Config} {addr : Word} {bits : Nat} {r : PortReg}
    (h : portAccess c addr bits = .ok r) :
    bits = 32 ∧ addr.toNat % 4 = 0 ∧
      ∃ k < 7, addr = c.portBase + BitVec.ofNat 32 (4 * k) ∧ r = portRegOf k := by
  unfold portAccess at h
  split at h
  · cases h
  · split at h
    · cases h
    · cases hr : portRegAt (addr - c.portBase) with
      | none => simp [hr] at h
      | some r' =>
        simp only [hr, Except.ok.injEq] at h
        obtain ⟨k, hk, ho, rfl⟩ := (portRegAt_eq_some _ _).1 hr
        refine ⟨by omega, by omega, k, hk, ?_, h.symm⟩
        rw [← ho, BitVec.add_comm, BitVec.sub_add_cancel]

end Sys2Proof.Machine
end

