-- ==== Sys2Proof/Laws/State.lean ====
section
/-! SUPPORT. What each named operation on the state does to each field: one lemma per field per operation,
for the simp set, so that no later proof unfolds an operation or a record update. -/

namespace Sys2Proof.Machine

@[simp] theorem log_control (e : Event) (s : State) : (s.log e).control = s.control := rfl
@[simp] theorem log_arg (e : Event) (s : State) : (s.log e).arg = s.arg := rfl
@[simp] theorem log_result (e : Event) (s : State) : (s.log e).result = s.result := rfl
@[simp] theorem log_status (e : Event) (s : State) : (s.log e).status = s.status := rfl
@[simp] theorem log_tcfg0 (e : Event) (s : State) : (s.log e).tcfg0 = s.tcfg0 := rfl
@[simp] theorem log_tcfg1 (e : Event) (s : State) : (s.log e).tcfg1 = s.tcfg1 := rfl
@[simp] theorem log_tcon (e : Event) (s : State) : (s.log e).tcon = s.tcon := rfl
@[simp] theorem log_tcntb (e : Event) (s : State) : (s.log e).tcntb = s.tcntb := rfl
@[simp] theorem log_tcmpb (e : Event) (s : State) : (s.log e).tcmpb = s.tcmpb := rfl
@[simp] theorem log_clksel (e : Event) (s : State) : (s.log e).clksel = s.clksel := rfl
@[simp] theorem log_clkdly (e : Event) (s : State) : (s.log e).clkdly = s.clkdly := rfl
@[simp] theorem log_pwmClk (e : Event) (s : State) : (s.log e).pwmClk = s.pwmClk := rfl
@[simp] theorem log_mmcClk (e : Event) (s : State) : (s.log e).mmcClk = s.mmcClk := rfl
@[simp] theorem log_cfg (e : Event) (s : State) : (s.log e).cfg = s.cfg := rfl
@[simp] theorem log_trace (e : Event) (s : State) : (s.log e).trace = s.trace ++ [e] := rfl
@[simp] theorem log_lastRead (e : Event) (s : State) : (s.log e).lastRead = s.lastRead := rfl
@[simp] theorem log_pending (e : Event) (s : State) : (s.log e).pending = s.pending := rfl
@[simp] theorem log_collab (e : Event) (s : State) : (s.log e).collab = s.collab := rfl

@[simp] theorem memRead_snd_control (r : TargetReg) (s : State) : ((memRead r s).2).control = s.control := rfl
@[simp] theorem memRead_snd_arg (r : TargetReg) (s : State) : ((memRead r s).2).arg = s.arg := rfl
@[simp] theorem memRead_snd_result (r : TargetReg) (s : State) : ((memRead r s).2).result = s.result := rfl
@[simp] theorem memRead_snd_status (r : TargetReg) (s : State) : ((memRead r s).2).status = s.status := rfl
@[simp] theorem memRead_snd_tcfg0 (r : TargetReg) (s : State) : ((memRead r s).2).tcfg0 = s.tcfg0 := rfl
@[simp] theorem memRead_snd_tcfg1 (r : TargetReg) (s : State) : ((memRead r s).2).tcfg1 = s.tcfg1 := rfl
@[simp] theorem memRead_snd_tcon (r : TargetReg) (s : State) : ((memRead r s).2).tcon = s.tcon := rfl
@[simp] theorem memRead_snd_tcntb (r : TargetReg) (s : State) : ((memRead r s).2).tcntb = s.tcntb := rfl
@[simp] theorem memRead_snd_tcmpb (r : TargetReg) (s : State) : ((memRead r s).2).tcmpb = s.tcmpb := rfl
@[simp] theorem memRead_snd_clksel (r : TargetReg) (s : State) : ((memRead r s).2).clksel = s.clksel := rfl
@[simp] theorem memRead_snd_clkdly (r : TargetReg) (s : State) : ((memRead r s).2).clkdly = s.clkdly := rfl
@[simp] theorem memRead_snd_pwmClk (r : TargetReg) (s : State) : ((memRead r s).2).pwmClk = s.pwmClk := rfl
@[simp] theorem memRead_snd_mmcClk (r : TargetReg) (s : State) : ((memRead r s).2).mmcClk = s.mmcClk := rfl
@[simp] theorem memRead_snd_cfg (r : TargetReg) (s : State) : ((memRead r s).2).cfg = s.cfg := rfl
@[simp] theorem memRead_snd_trace (r : TargetReg) (s : State) : ((memRead r s).2).trace = s.trace ++ [.memRead (r.addr s.cfg) (s.readValue r)] := rfl
@[simp] theorem memRead_snd_lastRead (r : TargetReg) (s : State) : ((memRead r s).2).lastRead = s.lastRead := rfl
@[simp] theorem memRead_snd_pending (r : TargetReg) (s : State) : ((memRead r s).2).pending = s.pending := rfl
@[simp] theorem memRead_snd_collab (r : TargetReg) (s : State) : ((memRead r s).2).collab = s.collab := rfl

@[simp] theorem setReg_control (r : TargetReg) (v : Word) (s : State) : (s.setReg r v).control = s.control := by cases r <;> rfl
@[simp] theorem setReg_arg (r : TargetReg) (v : Word) (s : State) : (s.setReg r v).arg = s.arg := by cases r <;> rfl
@[simp] theorem setReg_result (r : TargetReg) (v : Word) (s : State) : (s.setReg r v).result = s.result := by cases r <;> rfl
@[simp] theorem setReg_status (r : TargetReg) (v : Word) (s : State) : (s.setReg r v).status = s.status := by cases r <;> rfl
@[simp] theorem setReg_pwmClk (r : TargetReg) (v : Word) (s : State) : (s.setReg r v).pwmClk = s.pwmClk := by cases r <;> rfl
@[simp] theorem setReg_mmcClk (r : TargetReg) (v : Word) (s : State) : (s.setReg r v).mmcClk = s.mmcClk := by cases r <;> rfl
@[simp] theorem setReg_cfg (r : TargetReg) (v : Word) (s : State) : (s.setReg r v).cfg = s.cfg := by cases r <;> rfl
@[simp] theorem setReg_trace (r : TargetReg) (v : Word) (s : State) : (s.setReg r v).trace = s.trace := by cases r <;> rfl
@[simp] theorem setReg_lastRead (r : TargetReg) (v : Word) (s : State) : (s.setReg r v).lastRead = s.lastRead := by cases r <;> rfl
@[simp] theorem setReg_pending (r : TargetReg) (v : Word) (s : State) : (s.setReg r v).pending = s.pending := by cases r <;> rfl
@[simp] theorem setReg_collab (r : TargetReg) (v : Word) (s : State) : (s.setReg r v).collab = s.collab := by cases r <;> rfl

@[simp] theorem memWrite_control (r : TargetReg) (v : Word) (s : State) : (memWrite r v s).control = s.control := by cases r <;> rfl
@[simp] theorem memWrite_arg (r : TargetReg) (v : Word) (s : State) : (memWrite r v s).arg = s.arg := by cases r <;> rfl
@[simp] theorem memWrite_result (r : TargetReg) (v : Word) (s : State) : (memWrite r v s).result = s.result := by cases r <;> rfl
@[simp] theorem memWrite_status (r : TargetReg) (v : Word) (s : State) : (memWrite r v s).status = s.status := by cases r <;> rfl
@[simp] theorem memWrite_pwmClk (r : TargetReg) (v : Word) (s : State) : (memWrite r v s).pwmClk = s.pwmClk := by cases r <;> rfl
@[simp] theorem memWrite_mmcClk (r : TargetReg) (v : Word) (s : State) : (memWrite r v s).mmcClk = s.mmcClk := by cases r <;> rfl
@[simp] theorem memWrite_cfg (r : TargetReg) (v : Word) (s : State) : (memWrite r v s).cfg = s.cfg := by cases r <;> rfl
@[simp] theorem memWrite_trace (r : TargetReg) (v : Word) (s : State) : (memWrite r v s).trace = s.trace ++ [.memWrite (r.addr s.cfg) v] := by cases r <;> rfl
@[simp] theorem memWrite_lastRead (r : TargetReg) (v : Word) (s : State) : (memWrite r v s).lastRead = s.lastRead := by cases r <;> rfl
@[simp] theorem memWrite_pending (r : TargetReg) (v : Word) (s : State) : (memWrite r v s).pending = s.pending := by cases r <;> rfl
@[simp] theorem memWrite_collab (r : TargetReg) (v : Word) (s : State) : (memWrite r v s).collab = s.collab := by cases r <;> rfl

@[simp] theorem clkResolve_snd_control (n : String) (s : State) : ((clkResolve n s).2).control = s.control := rfl
@[simp] theorem clkResolve_snd_arg (n : String) (s : State) : ((clkResolve n s).2).arg = s.arg := rfl
@[simp] theorem clkResolve_snd_result (n : String) (s : State) : ((clkResolve n s).2).result = s.result := rfl
@[simp] theorem clkResolve_snd_status (n : String) (s : State) : ((clkResolve n s).2).status = s.status := rfl
@[simp] theorem clkResolve_snd_tcfg0 (n : String) (s : State) : ((clkResolve n s).2).tcfg0 = s.tcfg0 := rfl
@[simp] theorem clkResolve_snd_tcfg1 (n : String) (s : State) : ((clkResolve n s).2).tcfg1 = s.tcfg1 := rfl
@[simp] theorem clkResolve_snd_tcon (n : String) (s : State) : ((clkResolve n s).2).tcon = s.tcon := rfl
@[simp] theorem clkResolve_snd_tcntb (n : String) (s : State) : ((clkResolve n s).2).tcntb = s.tcntb := rfl
@[simp] theorem clkResolve_snd_tcmpb (n : String) (s : State) : ((clkResolve n s).2).tcmpb = s.tcmpb := rfl
@[simp] theorem clkResolve_snd_clksel (n : String) (s : State) : ((clkResolve n s).2).clksel = s.clksel := rfl
@[simp] theorem clkResolve_snd_clkdly (n : String) (s : State) : ((clkResolve n s).2).clkdly = s.clkdly := rfl
@[simp] theorem clkResolve_snd_pwmClk (n : String) (s : State) : ((clkResolve n s).2).pwmClk = s.pwmClk := rfl
@[simp] theorem clkResolve_snd_mmcClk (n : String) (s : State) : ((clkResolve n s).2).mmcClk = s.mmcClk := rfl
@[simp] theorem clkResolve_snd_cfg (n : String) (s : State) : ((clkResolve n s).2).cfg = s.cfg := rfl
@[simp] theorem clkResolve_snd_trace (n : String) (s : State) : ((clkResolve n s).2).trace = s.trace ++ [.clkResolve n s.collab.nextResolve] := rfl
@[simp] theorem clkResolve_snd_lastRead (n : String) (s : State) : ((clkResolve n s).2).lastRead = s.lastRead := rfl
@[simp] theorem clkResolve_snd_pending (n : String) (s : State) : ((clkResolve n s).2).pending = s.pending := rfl
@[simp] theorem clkResolve_snd_collab (n : String) (s : State) : ((clkResolve n s).2).collab = s.collab.afterResolve := rfl

@[simp] theorem clkGetRate_snd_control (h : Handle) (s : State) : ((clkGetRate h s).2).control = s.control := rfl
@[simp] theorem clkGetRate_snd_arg (h : Handle) (s : State) : ((clkGetRate h s).2).arg = s.arg := rfl
@[simp] theorem clkGetRate_snd_result (h : Handle) (s : State) : ((clkGetRate h s).2).result = s.result := rfl
@[simp] theorem clkGetRate_snd_status (h : Handle) (s : State) : ((clkGetRate h s).2).status = s.status := rfl
@[simp] theorem clkGetRate_snd_tcfg0 (h : Handle) (s : State) : ((clkGetRate h s).2).tcfg0 = s.tcfg0 := rfl
@[simp] theorem clkGetRate_snd_tcfg1 (h : Handle) (s : State) : ((clkGetRate h s).2).tcfg1 = s.tcfg1 := rfl
@[simp] theorem clkGetRate_snd_tcon (h : Handle) (s : State) : ((clkGetRate h s).2).tcon = s.tcon := rfl
@[simp] theorem clkGetRate_snd_tcntb (h : Handle) (s : State) : ((clkGetRate h s).2).tcntb = s.tcntb := rfl
@[simp] theorem clkGetRate_snd_tcmpb (h : Handle) (s : State) : ((clkGetRate h s).2).tcmpb = s.tcmpb := rfl
@[simp] theorem clkGetRate_snd_clksel (h : Handle) (s : State) : ((clkGetRate h s).2).clksel = s.clksel := rfl
@[simp] theorem clkGetRate_snd_clkdly (h : Handle) (s : State) : ((clkGetRate h s).2).clkdly = s.clkdly := rfl
@[simp] theorem clkGetRate_snd_pwmClk (h : Handle) (s : State) : ((clkGetRate h s).2).pwmClk = s.pwmClk := rfl
@[simp] theorem clkGetRate_snd_mmcClk (h : Handle) (s : State) : ((clkGetRate h s).2).mmcClk = s.mmcClk := rfl
@[simp] theorem clkGetRate_snd_cfg (h : Handle) (s : State) : ((clkGetRate h s).2).cfg = s.cfg := rfl
@[simp] theorem clkGetRate_snd_trace (h : Handle) (s : State) : ((clkGetRate h s).2).trace = s.trace ++ [.clkGetRate h s.collab.nextRate] := rfl
@[simp] theorem clkGetRate_snd_lastRead (h : Handle) (s : State) : ((clkGetRate h s).2).lastRead = s.lastRead := rfl
@[simp] theorem clkGetRate_snd_pending (h : Handle) (s : State) : ((clkGetRate h s).2).pending = s.pending := rfl
@[simp] theorem clkGetRate_snd_collab (h : Handle) (s : State) : ((clkGetRate h s).2).collab = s.collab.afterRate := rfl

@[simp] theorem clkSetRate_snd_control (h : Handle) (hz : Word) (s : State) : ((clkSetRate h hz s).2).control = s.control := rfl
@[simp] theorem clkSetRate_snd_arg (h : Handle) (hz : Word) (s : State) : ((clkSetRate h hz s).2).arg = s.arg := rfl
@[simp] theorem clkSetRate_snd_result (h : Handle) (hz : Word) (s : State) : ((clkSetRate h hz s).2).result = s.result := rfl
@[simp] theorem clkSetRate_snd_status (h : Handle) (hz : Word) (s : State) : ((clkSetRate h hz s).2).status = s.status := rfl
@[simp] theorem clkSetRate_snd_tcfg0 (h : Handle) (hz : Word) (s : State) : ((clkSetRate h hz s).2).tcfg0 = s.tcfg0 := rfl
@[simp] theorem clkSetRate_snd_tcfg1 (h : Handle) (hz : Word) (s : State) : ((clkSetRate h hz s).2).tcfg1 = s.tcfg1 := rfl
@[simp] theorem clkSetRate_snd_tcon (h : Handle) (hz : Word) (s : State) : ((clkSetRate h hz s).2).tcon = s.tcon := rfl
@[simp] theorem clkSetRate_snd_tcntb (h : Handle) (hz : Word) (s : State) : ((clkSetRate h hz s).2).tcntb = s.tcntb := rfl
@[simp] theorem clkSetRate_snd_tcmpb (h : Handle) (hz : Word) (s : State) : ((clkSetRate h hz s).2).tcmpb = s.tcmpb := rfl
@[simp] theorem clkSetRate_snd_clksel (h : Handle) (hz : Word) (s : State) : ((clkSetRate h hz s).2).clksel = s.clksel := rfl
@[simp] theorem clkSetRate_snd_clkdly (h : Handle) (hz : Word) (s : State) : ((clkSetRate h hz s).2).clkdly = s.clkdly := rfl
@[simp] theorem clkSetRate_snd_pwmClk (h : Handle) (hz : Word) (s : State) : ((clkSetRate h hz s).2).pwmClk = s.pwmClk := rfl
@[simp] theorem clkSetRate_snd_mmcClk (h : Handle) (hz : Word) (s : State) : ((clkSetRate h hz s).2).mmcClk = s.mmcClk := rfl
@[simp] theorem clkSetRate_snd_cfg (h : Handle) (hz : Word) (s : State) : ((clkSetRate h hz s).2).cfg = s.cfg := rfl
@[simp] theorem clkSetRate_snd_trace (h : Handle) (hz : Word) (s : State) : ((clkSetRate h hz s).2).trace = s.trace ++ [.clkSetRate h hz s.collab.nextSetRate] := rfl
@[simp] theorem clkSetRate_snd_lastRead (h : Handle) (hz : Word) (s : State) : ((clkSetRate h hz s).2).lastRead = s.lastRead := rfl
@[simp] theorem clkSetRate_snd_pending (h : Handle) (hz : Word) (s : State) : ((clkSetRate h hz s).2).pending = s.pending := rfl
@[simp] theorem clkSetRate_snd_collab (h : Handle) (hz : Word) (s : State) : ((clkSetRate h hz s).2).collab = s.collab.afterSetRate := rfl

@[simp] theorem clkEnable_control (h : Handle) (s : State) : (clkEnable h s).control = s.control := rfl
@[simp] theorem clkEnable_arg (h : Handle) (s : State) : (clkEnable h s).arg = s.arg := rfl
@[simp] theorem clkEnable_result (h : Handle) (s : State) : (clkEnable h s).result = s.result := rfl
@[simp] theorem clkEnable_status (h : Handle) (s : State) : (clkEnable h s).status = s.status := rfl
@[simp] theorem clkEnable_tcfg0 (h : Handle) (s : State) : (clkEnable h s).tcfg0 = s.tcfg0 := rfl
@[simp] theorem clkEnable_tcfg1 (h : Handle) (s : State) : (clkEnable h s).tcfg1 = s.tcfg1 := rfl
@[simp] theorem clkEnable_tcon (h : Handle) (s : State) : (clkEnable h s).tcon = s.tcon := rfl
@[simp] theorem clkEnable_tcntb (h : Handle) (s : State) : (clkEnable h s).tcntb = s.tcntb := rfl
@[simp] theorem clkEnable_tcmpb (h : Handle) (s : State) : (clkEnable h s).tcmpb = s.tcmpb := rfl
@[simp] theorem clkEnable_clksel (h : Handle) (s : State) : (clkEnable h s).clksel = s.clksel := rfl
@[simp] theorem clkEnable_clkdly (h : Handle) (s : State) : (clkEnable h s).clkdly = s.clkdly := rfl
@[simp] theorem clkEnable_pwmClk (h : Handle) (s : State) : (clkEnable h s).pwmClk = s.pwmClk := rfl
@[simp] theorem clkEnable_mmcClk (h : Handle) (s : State) : (clkEnable h s).mmcClk = s.mmcClk := rfl
@[simp] theorem clkEnable_cfg (h : Handle) (s : State) : (clkEnable h s).cfg = s.cfg := rfl
@[simp] theorem clkEnable_trace (h : Handle) (s : State) : (clkEnable h s).trace = s.trace ++ [.clkEnable h] := rfl
@[simp] theorem clkEnable_lastRead (h : Handle) (s : State) : (clkEnable h s).lastRead = s.lastRead := rfl
@[simp] theorem clkEnable_pending (h : Handle) (s : State) : (clkEnable h s).pending = s.pending := rfl
@[simp] theorem clkEnable_collab (h : Handle) (s : State) : (clkEnable h s).collab = s.collab := rfl

@[simp] theorem clkDisable_control (h : Handle) (s : State) : (clkDisable h s).control = s.control := rfl
@[simp] theorem clkDisable_arg (h : Handle) (s : State) : (clkDisable h s).arg = s.arg := rfl
@[simp] theorem clkDisable_result (h : Handle) (s : State) : (clkDisable h s).result = s.result := rfl
@[simp] theorem clkDisable_status (h : Handle) (s : State) : (clkDisable h s).status = s.status := rfl
@[simp] theorem clkDisable_tcfg0 (h : Handle) (s : State) : (clkDisable h s).tcfg0 = s.tcfg0 := rfl
@[simp] theorem clkDisable_tcfg1 (h : Handle) (s : State) : (clkDisable h s).tcfg1 = s.tcfg1 := rfl
@[simp] theorem clkDisable_tcon (h : Handle) (s : State) : (clkDisable h s).tcon = s.tcon := rfl
@[simp] theorem clkDisable_tcntb (h : Handle) (s : State) : (clkDisable h s).tcntb = s.tcntb := rfl
@[simp] theorem clkDisable_tcmpb (h : Handle) (s : State) : (clkDisable h s).tcmpb = s.tcmpb := rfl
@[simp] theorem clkDisable_clksel (h : Handle) (s : State) : (clkDisable h s).clksel = s.clksel := rfl
@[simp] theorem clkDisable_clkdly (h : Handle) (s : State) : (clkDisable h s).clkdly = s.clkdly := rfl
@[simp] theorem clkDisable_pwmClk (h : Handle) (s : State) : (clkDisable h s).pwmClk = s.pwmClk := rfl
@[simp] theorem clkDisable_mmcClk (h : Handle) (s : State) : (clkDisable h s).mmcClk = s.mmcClk := rfl
@[simp] theorem clkDisable_cfg (h : Handle) (s : State) : (clkDisable h s).cfg = s.cfg := rfl
@[simp] theorem clkDisable_trace (h : Handle) (s : State) : (clkDisable h s).trace = s.trace ++ [.clkDisable h] := rfl
@[simp] theorem clkDisable_lastRead (h : Handle) (s : State) : (clkDisable h s).lastRead = s.lastRead := rfl
@[simp] theorem clkDisable_pending (h : Handle) (s : State) : (clkDisable h s).pending = s.pending := rfl
@[simp] theorem clkDisable_collab (h : Handle) (s : State) : (clkDisable h s).collab = s.collab := rfl

@[simp] theorem succeed_control (s : State) : (succeed s).control = s.control := rfl
@[simp] theorem succeed_arg (s : State) : (succeed s).arg = s.arg := rfl
@[simp] theorem succeed_result (s : State) : (succeed s).result = s.result := rfl
@[simp] theorem succeed_status (s : State) : (succeed s).status = setCode s.status okCode := rfl
@[simp] theorem succeed_tcfg0 (s : State) : (succeed s).tcfg0 = s.tcfg0 := rfl
@[simp] theorem succeed_tcfg1 (s : State) : (succeed s).tcfg1 = s.tcfg1 := rfl
@[simp] theorem succeed_tcon (s : State) : (succeed s).tcon = s.tcon := rfl
@[simp] theorem succeed_tcntb (s : State) : (succeed s).tcntb = s.tcntb := rfl
@[simp] theorem succeed_tcmpb (s : State) : (succeed s).tcmpb = s.tcmpb := rfl
@[simp] theorem succeed_clksel (s : State) : (succeed s).clksel = s.clksel := rfl
@[simp] theorem succeed_clkdly (s : State) : (succeed s).clkdly = s.clkdly := rfl
@[simp] theorem succeed_pwmClk (s : State) : (succeed s).pwmClk = s.pwmClk := rfl
@[simp] theorem succeed_mmcClk (s : State) : (succeed s).mmcClk = s.mmcClk := rfl
@[simp] theorem succeed_cfg (s : State) : (succeed s).cfg = s.cfg := rfl
@[simp] theorem succeed_trace (s : State) : (succeed s).trace = s.trace := rfl
@[simp] theorem succeed_lastRead (s : State) : (succeed s).lastRead = s.lastRead := rfl
@[simp] theorem succeed_pending (s : State) : (succeed s).pending = s.pending := rfl
@[simp] theorem succeed_collab (s : State) : (succeed s).collab = s.collab := rfl

@[simp] theorem succeedWith_control (v : Word) (s : State) : (succeedWith v s).control = s.control := rfl
@[simp] theorem succeedWith_arg (v : Word) (s : State) : (succeedWith v s).arg = s.arg := rfl
@[simp] theorem succeedWith_result (v : Word) (s : State) : (succeedWith v s).result = v := rfl
@[simp] theorem succeedWith_status (v : Word) (s : State) : (succeedWith v s).status = setCode s.status okCode := rfl
@[simp] theorem succeedWith_tcfg0 (v : Word) (s : State) : (succeedWith v s).tcfg0 = s.tcfg0 := rfl
@[simp] theorem succeedWith_tcfg1 (v : Word) (s : State) : (succeedWith v s).tcfg1 = s.tcfg1 := rfl
@[simp] theorem succeedWith_tcon (v : Word) (s : State) : (succeedWith v s).tcon = s.tcon := rfl
@[simp] theorem succeedWith_tcntb (v : Word) (s : State) : (succeedWith v s).tcntb = s.tcntb := rfl
@[simp] theorem succeedWith_tcmpb (v : Word) (s : State) : (succeedWith v s).tcmpb = s.tcmpb := rfl
@[simp] theorem succeedWith_clksel (v : Word) (s : State) : (succeedWith v s).clksel = s.clksel := rfl
@[simp] theorem succeedWith_clkdly (v : Word) (s : State) : (succeedWith v s).clkdly = s.clkdly := rfl
@[simp] theorem succeedWith_pwmClk (v : Word) (s : State) : (succeedWith v s).pwmClk = s.pwmClk := rfl
@[simp] theorem succeedWith_mmcClk (v : Word) (s : State) : (succeedWith v s).mmcClk = s.mmcClk := rfl
@[simp] theorem succeedWith_cfg (v : Word) (s : State) : (succeedWith v s).cfg = s.cfg := rfl
@[simp] theorem succeedWith_trace (v : Word) (s : State) : (succeedWith v s).trace = s.trace := rfl
@[simp] theorem succeedWith_lastRead (v : Word) (s : State) : (succeedWith v s).lastRead = s.lastRead := rfl
@[simp] theorem succeedWith_pending (v : Word) (s : State) : (succeedWith v s).pending = s.pending := rfl
@[simp] theorem succeedWith_collab (v : Word) (s : State) : (succeedWith v s).collab = s.collab := rfl

@[simp] theorem raiseError_control (k : ErrorKind) (s : State) : (raiseError k s).control = s.control := rfl
@[simp] theorem raiseError_arg (k : ErrorKind) (s : State) : (raiseError k s).arg = s.arg := rfl
@[simp] theorem raiseError_result (k : ErrorKind) (s : State) : (raiseError k s).result = s.result := rfl
@[simp] theorem raiseError_status (k : ErrorKind) (s : State) : (raiseError k s).status = setCode s.status k.code := rfl
@[simp] theorem raiseError_tcfg0 (k : ErrorKind) (s : State) : (raiseError k s).tcfg0 = s.tcfg0 := rfl
@[simp] theorem raiseError_tcfg1 (k : ErrorKind) (s : State) : (raiseError k s).tcfg1 = s.tcfg1 := rfl
@[simp] theorem raiseError_tcon (k : ErrorKind) (s : State) : (raiseError k s).tcon = s.tcon := rfl
@[simp] theorem raiseError_tcntb (k : ErrorKind) (s : State) : (raiseError k s).tcntb = s.tcntb := rfl
@[simp] theorem raiseError_tcmpb (k : ErrorKind) (s : State) : (raiseError k s).tcmpb = s.tcmpb := rfl
@[simp] theorem raiseError_clksel (k : ErrorKind) (s : State) : (raiseError k s).clksel = s.clksel := rfl
@[simp] theorem raiseError_clkdly (k : ErrorKind) (s : State) : (raiseError k s).clkdly = s.clkdly := rfl
@[simp] theorem raiseError_pwmClk (k : ErrorKind) (s : State) : (raiseError k s).pwmClk = s.pwmClk := rfl
@[simp] theorem raiseError_mmcClk (k : ErrorKind) (s : State) : (raiseError k s).mmcClk = s.mmcClk := rfl
@[simp] theorem raiseError_cfg (k : ErrorKind) (s : State) : (raiseError k s).cfg = s.cfg := rfl
@[simp] theorem raiseError_trace (k : ErrorKind) (s : State) : (raiseError k s).trace = s.trace := rfl
@[simp] theorem raiseError_lastRead (k : ErrorKind) (s : State) : (raiseError k s).lastRead = s.lastRead := rfl
@[simp] theorem raiseError_pending (k : ErrorKind) (s : State) : (raiseError k s).pending = s.pending := rfl
@[simp] theorem raiseError_collab (k : ErrorKind) (s : State) : (raiseError k s).collab = s.collab := rfl

@[simp] theorem raiseFault_control (r : FaultReason) (s : State) : (raiseFault r s).control = .faulted := rfl
@[simp] theorem raiseFault_arg (r : FaultReason) (s : State) : (raiseFault r s).arg = s.arg := rfl
@[simp] theorem raiseFault_result (r : FaultReason) (s : State) : (raiseFault r s).result = s.result := rfl
@[simp] theorem raiseFault_status (r : FaultReason) (s : State) : (raiseFault r s).status = setFaultBits s.status r.code := rfl
@[simp] theorem raiseFault_tcfg0 (r : FaultReason) (s : State) : (raiseFault r s).tcfg0 = s.tcfg0 := rfl
@[simp] theorem raiseFault_tcfg1 (r : FaultReason) (s : State) : (raiseFault r s).tcfg1 = s.tcfg1 := rfl
@[simp] theorem raiseFault_tcon (r : FaultReason) (s : State) : (raiseFault r s).tcon = s.tcon := rfl
@[simp] theorem raiseFault_tcntb (r : FaultReason) (s : State) : (raiseFault r s).tcntb = s.tcntb := rfl
@[simp] theorem raiseFault_tcmpb (r : FaultReason) (s : State) : (raiseFault r s).tcmpb = s.tcmpb := rfl
@[simp] theorem raiseFault_clksel (r : FaultReason) (s : State) : (raiseFault r s).clksel = s.clksel := rfl
@[simp] theorem raiseFault_clkdly (r : FaultReason) (s : State) : (raiseFault r s).clkdly = s.clkdly := rfl
@[simp] theorem raiseFault_pwmClk (r : FaultReason) (s : State) : (raiseFault r s).pwmClk = s.pwmClk := rfl
@[simp] theorem raiseFault_mmcClk (r : FaultReason) (s : State) : (raiseFault r s).mmcClk = s.mmcClk := rfl
@[simp] theorem raiseFault_cfg (r : FaultReason) (s : State) : (raiseFault r s).cfg = s.cfg := rfl
@[simp] theorem raiseFault_trace (r : FaultReason) (s : State) : (raiseFault r s).trace = s.trace := rfl
@[simp] theorem raiseFault_lastRead (r : FaultReason) (s : State) : (raiseFault r s).lastRead = s.lastRead := rfl
@[simp] theorem raiseFault_pending (r : FaultReason) (s : State) : (raiseFault r s).pending = s.pending := rfl
@[simp] theorem raiseFault_collab (r : FaultReason) (s : State) : (raiseFault r s).collab = s.collab := rfl

@[simp] theorem rejectIllegal_control (s : State) : (rejectIllegal s).control = s.control := rfl
@[simp] theorem rejectIllegal_arg (s : State) : (rejectIllegal s).arg = s.arg := rfl
@[simp] theorem rejectIllegal_result (s : State) : (rejectIllegal s).result = s.result := rfl
@[simp] theorem rejectIllegal_status (s : State) : (rejectIllegal s).status = setCode s.status illegalCommandCode := rfl
@[simp] theorem rejectIllegal_tcfg0 (s : State) : (rejectIllegal s).tcfg0 = s.tcfg0 := rfl
@[simp] theorem rejectIllegal_tcfg1 (s : State) : (rejectIllegal s).tcfg1 = s.tcfg1 := rfl
@[simp] theorem rejectIllegal_tcon (s : State) : (rejectIllegal s).tcon = s.tcon := rfl
@[simp] theorem rejectIllegal_tcntb (s : State) : (rejectIllegal s).tcntb = s.tcntb := rfl
@[simp] theorem rejectIllegal_tcmpb (s : State) : (rejectIllegal s).tcmpb = s.tcmpb := rfl
@[simp] theorem rejectIllegal_clksel (s : State) : (rejectIllegal s).clksel = s.clksel := rfl
@[simp] theorem rejectIllegal_clkdly (s : State) : (rejectIllegal s).clkdly = s.clkdly := rfl
@[simp] theorem rejectIllegal_pwmClk (s : State) : (rejectIllegal s).pwmClk = s.pwmClk := rfl
@[simp] theorem rejectIllegal_mmcClk (s : State) : (rejectIllegal s).mmcClk = s.mmcClk := rfl
@[simp] theorem rejectIllegal_cfg (s : State) : (rejectIllegal s).cfg = s.cfg := rfl
@[simp] theorem rejectIllegal_trace (s : State) : (rejectIllegal s).trace = s.trace := rfl
@[simp] theorem rejectIllegal_lastRead (s : State) : (rejectIllegal s).lastRead = s.lastRead := rfl
@[simp] theorem rejectIllegal_pending (s : State) : (rejectIllegal s).pending = s.pending := rfl
@[simp] theorem rejectIllegal_collab (s : State) : (rejectIllegal s).collab = s.collab := rfl

@[simp] theorem resetBlock_control (c : Config) (s : State) : (resetBlock c s).control = (State.resetWith c).control := rfl
@[simp] theorem resetBlock_arg (c : Config) (s : State) : (resetBlock c s).arg = (State.resetWith c).arg := rfl
@[simp] theorem resetBlock_result (c : Config) (s : State) : (resetBlock c s).result = (State.resetWith c).result := rfl
@[simp] theorem resetBlock_status (c : Config) (s : State) : (resetBlock c s).status = (State.resetWith c).status := rfl
@[simp] theorem resetBlock_tcfg0 (c : Config) (s : State) : (resetBlock c s).tcfg0 = (State.resetWith c).tcfg0 := rfl
@[simp] theorem resetBlock_tcfg1 (c : Config) (s : State) : (resetBlock c s).tcfg1 = (State.resetWith c).tcfg1 := rfl
@[simp] theorem resetBlock_tcon (c : Config) (s : State) : (resetBlock c s).tcon = (State.resetWith c).tcon := rfl
@[simp] theorem resetBlock_tcntb (c : Config) (s : State) : (resetBlock c s).tcntb = (State.resetWith c).tcntb := rfl
@[simp] theorem resetBlock_tcmpb (c : Config) (s : State) : (resetBlock c s).tcmpb = (State.resetWith c).tcmpb := rfl
@[simp] theorem resetBlock_clksel (c : Config) (s : State) : (resetBlock c s).clksel = (State.resetWith c).clksel := rfl
@[simp] theorem resetBlock_clkdly (c : Config) (s : State) : (resetBlock c s).clkdly = (State.resetWith c).clkdly := rfl
@[simp] theorem resetBlock_pwmClk (c : Config) (s : State) : (resetBlock c s).pwmClk = (State.resetWith c).pwmClk := rfl
@[simp] theorem resetBlock_mmcClk (c : Config) (s : State) : (resetBlock c s).mmcClk = (State.resetWith c).mmcClk := rfl
@[simp] theorem resetBlock_cfg (c : Config) (s : State) : (resetBlock c s).cfg = (State.resetWith c).cfg := rfl
@[simp] theorem resetBlock_trace (c : Config) (s : State) : (resetBlock c s).trace = (State.resetWith c).trace := rfl
@[simp] theorem resetBlock_lastRead (c : Config) (s : State) : (resetBlock c s).lastRead = (State.resetWith c).lastRead := rfl
@[simp] theorem resetBlock_pending (c : Config) (s : State) : (resetBlock c s).pending = s.pending := rfl
@[simp] theorem resetBlock_collab (c : Config) (s : State) : (resetBlock c s).collab = s.collab := rfl

@[simp] theorem memRead_fst (r : TargetReg) (s : State) : (memRead r s).1 = s.readValue r := rfl
@[simp] theorem clkResolve_fst (n : String) (s : State) : (clkResolve n s).1 = s.collab.nextResolve := rfl
@[simp] theorem clkGetRate_fst (h : Handle) (s : State) : (clkGetRate h s).1 = s.collab.nextRate := rfl
@[simp] theorem clkSetRate_fst (h : Handle) (hz : Word) (s : State) :
    (clkSetRate h hz s).1 = s.collab.nextSetRate := rfl

/-- A store in a target register is read back there, and leaves every other register alone. -/
theorem reg_setReg (r r' : TargetReg) (v : Word) (s : State) :
    (s.setReg r v).reg r' = if r' = r then v else s.reg r' := by
  cases r <;> cases r' <;>
    simp [State.setReg, State.reg, Vector.getElem_set, Fin.val_inj, eq_comm]

/-- What a register holds after a `MemWrite`. -/
theorem reg_memWrite (r r' : TargetReg) (v : Word) (s : State) :
    (memWrite r v s).reg r' = if r' = r then storedValue s.cfg r v else s.reg r' := by
  rw [← reg_setReg]
  cases r' <;> rfl

/-- Outside `tcfg0` and `tcfg1` a register stores what is written. -/
@[simp] theorem storedValue_tcon (c : Config) (v : Word) : storedValue c .tcon v = v := by
  simp only [storedValue]; split <;> simp_all
@[simp] theorem storedValue_tcntb (c : Config) (ch : Channel) (v : Word) :
    storedValue c (.tcntb ch) v = v := by
  simp only [storedValue]; split <;> simp_all
@[simp] theorem storedValue_tcmpb (c : Config) (ch : Channel) (v : Word) :
    storedValue c (.tcmpb ch) v = v := by
  simp only [storedValue]; split <;> simp_all
@[simp] theorem storedValue_clksel (c : Config) (v : Word) : storedValue c .clksel v = v := by
  simp only [storedValue]; split <;> simp_all
@[simp] theorem storedValue_clkdly (c : Config) (v : Word) : storedValue c .clkdly v = v := by
  simp only [storedValue]; split <;> simp_all

@[simp] theorem memWrite_tcfg0_tcfg1 (v : Word) (s : State) : (memWrite .tcfg0 v s).tcfg1 = s.tcfg1 := rfl
@[simp] theorem memWrite_tcfg0_tcon (v : Word) (s : State) : (memWrite .tcfg0 v s).tcon = s.tcon := rfl
@[simp] theorem memWrite_tcfg0_tcntb (v : Word) (s : State) : (memWrite .tcfg0 v s).tcntb = s.tcntb := rfl
@[simp] theorem memWrite_tcfg0_tcmpb (v : Word) (s : State) : (memWrite .tcfg0 v s).tcmpb = s.tcmpb := rfl
@[simp] theorem memWrite_tcfg0_clksel (v : Word) (s : State) : (memWrite .tcfg0 v s).clksel = s.clksel := rfl
@[simp] theorem memWrite_tcfg0_clkdly (v : Word) (s : State) : (memWrite .tcfg0 v s).clkdly = s.clkdly := rfl

@[simp] theorem memWrite_tcfg1_tcfg0 (v : Word) (s : State) : (memWrite .tcfg1 v s).tcfg0 = s.tcfg0 := rfl
@[simp] theorem memWrite_tcfg1_tcon (v : Word) (s : State) : (memWrite .tcfg1 v s).tcon = s.tcon := rfl
@[simp] theorem memWrite_tcfg1_tcntb (v : Word) (s : State) : (memWrite .tcfg1 v s).tcntb = s.tcntb := rfl
@[simp] theorem memWrite_tcfg1_tcmpb (v : Word) (s : State) : (memWrite .tcfg1 v s).tcmpb = s.tcmpb := rfl
@[simp] theorem memWrite_tcfg1_clksel (v : Word) (s : State) : (memWrite .tcfg1 v s).clksel = s.clksel := rfl
@[simp] theorem memWrite_tcfg1_clkdly (v : Word) (s : State) : (memWrite .tcfg1 v s).clkdly = s.clkdly := rfl

@[simp] theorem memWrite_tcon_tcfg0 (v : Word) (s : State) : (memWrite .tcon v s).tcfg0 = s.tcfg0 := rfl
@[simp] theorem memWrite_tcon_tcfg1 (v : Word) (s : State) : (memWrite .tcon v s).tcfg1 = s.tcfg1 := rfl
@[simp] theorem memWrite_tcon_tcntb (v : Word) (s : State) : (memWrite .tcon v s).tcntb = s.tcntb := rfl
@[simp] theorem memWrite_tcon_tcmpb (v : Word) (s : State) : (memWrite .tcon v s).tcmpb = s.tcmpb := rfl
@[simp] theorem memWrite_tcon_clksel (v : Word) (s : State) : (memWrite .tcon v s).clksel = s.clksel := rfl
@[simp] theorem memWrite_tcon_clkdly (v : Word) (s : State) : (memWrite .tcon v s).clkdly = s.clkdly := rfl

@[simp] theorem memWrite_tcntb_tcfg0 (ch : Channel) (v : Word) (s : State) : (memWrite (.tcntb ch) v s).tcfg0 = s.tcfg0 := rfl
@[simp] theorem memWrite_tcntb_tcfg1 (ch : Channel) (v : Word) (s : State) : (memWrite (.tcntb ch) v s).tcfg1 = s.tcfg1 := rfl
@[simp] theorem memWrite_tcntb_tcon (ch : Channel) (v : Word) (s : State) : (memWrite (.tcntb ch) v s).tcon = s.tcon := rfl
@[simp] theorem memWrite_tcntb_tcmpb (ch : Channel) (v : Word) (s : State) : (memWrite (.tcntb ch) v s).tcmpb = s.tcmpb := rfl
@[simp] theorem memWrite_tcntb_clksel (ch : Channel) (v : Word) (s : State) : (memWrite (.tcntb ch) v s).clksel = s.clksel := rfl
@[simp] theorem memWrite_tcntb_clkdly (ch : Channel) (v : Word) (s : State) : (memWrite (.tcntb ch) v s).clkdly = s.clkdly := rfl

@[simp] theorem memWrite_tcmpb_tcfg0 (ch : Channel) (v : Word) (s : State) : (memWrite (.tcmpb ch) v s).tcfg0 = s.tcfg0 := rfl
@[simp] theorem memWrite_tcmpb_tcfg1 (ch : Channel) (v : Word) (s : State) : (memWrite (.tcmpb ch) v s).tcfg1 = s.tcfg1 := rfl
@[simp] theorem memWrite_tcmpb_tcon (ch : Channel) (v : Word) (s : State) : (memWrite (.tcmpb ch) v s).tcon = s.tcon := rfl
@[simp] theorem memWrite_tcmpb_tcntb (ch : Channel) (v : Word) (s : State) : (memWrite (.tcmpb ch) v s).tcntb = s.tcntb := rfl
@[simp] theorem memWrite_tcmpb_clksel (ch : Channel) (v : Word) (s : State) : (memWrite (.tcmpb ch) v s).clksel = s.clksel := rfl
@[simp] theorem memWrite_tcmpb_clkdly (ch : Channel) (v : Word) (s : State) : (memWrite (.tcmpb ch) v s).clkdly = s.clkdly := rfl

@[simp] theorem memWrite_clksel_tcfg0 (v : Word) (s : State) : (memWrite .clksel v s).tcfg0 = s.tcfg0 := rfl
@[simp] theorem memWrite_clksel_tcfg1 (v : Word) (s : State) : (memWrite .clksel v s).tcfg1 = s.tcfg1 := rfl
@[simp] theorem memWrite_clksel_tcon (v : Word) (s : State) : (memWrite .clksel v s).tcon = s.tcon := rfl
@[simp] theorem memWrite_clksel_tcntb (v : Word) (s : State) : (memWrite .clksel v s).tcntb = s.tcntb := rfl
@[simp] theorem memWrite_clksel_tcmpb (v : Word) (s : State) : (memWrite .clksel v s).tcmpb = s.tcmpb := rfl
@[simp] theorem memWrite_clksel_clkdly (v : Word) (s : State) : (memWrite .clksel v s).clkdly = s.clkdly := rfl

@[simp] theorem memWrite_clkdly_tcfg0 (v : Word) (s : State) : (memWrite .clkdly v s).tcfg0 = s.tcfg0 := rfl
@[simp] theorem memWrite_clkdly_tcfg1 (v : Word) (s : State) : (memWrite .clkdly v s).tcfg1 = s.tcfg1 := rfl
@[simp] theorem memWrite_clkdly_tcon (v : Word) (s : State) : (memWrite .clkdly v s).tcon = s.tcon := rfl
@[simp] theorem memWrite_clkdly_tcntb (v : Word) (s : State) : (memWrite .clkdly v s).tcntb = s.tcntb := rfl
@[simp] theorem memWrite_clkdly_tcmpb (v : Word) (s : State) : (memWrite .clkdly v s).tcmpb = s.tcmpb := rfl
@[simp] theorem memWrite_clkdly_clksel (v : Word) (s : State) : (memWrite .clkdly v s).clksel = s.clksel := rfl

/-- A block read of `tcon` returns what it holds (10_state.md R32). -/
@[simp] theorem readValue_tcon (s : State) : s.readValue .tcon = s.tcon := by
  simp only [State.readValue]; split <;> simp_all [State.reg]

@[simp] theorem memWrite_tcon_tcon (v : Word) (s : State) : (memWrite .tcon v s).tcon = v :=
  storedValue_tcon s.cfg v
@[simp] theorem memWrite_tcntb_tcntb (ch : Channel) (v : Word) (s : State) :
    (memWrite (.tcntb ch) v s).tcntb = s.tcntb.set ch.val v := by
  simp [memWrite, State.setReg, State.log]
@[simp] theorem memWrite_tcmpb_tcmpb (ch : Channel) (v : Word) (s : State) :
    (memWrite (.tcmpb ch) v s).tcmpb = s.tcmpb.set ch.val v := by
  simp [memWrite, State.setReg, State.log]
@[simp] theorem memWrite_clksel_clksel (v : Word) (s : State) : (memWrite .clksel v s).clksel = v :=
  storedValue_clksel s.cfg v
@[simp] theorem memWrite_clkdly_clkdly (v : Word) (s : State) : (memWrite .clkdly v s).clkdly = v :=
  storedValue_clkdly s.cfg v

end Sys2Proof.Machine
end

