-- ==== Sys2Proof/Laws/Clock.lean ====
section
/-! SUPPORT. What the two clock-handle caches can do (40_pwm.md R86, 41_mmc.md R120): one inversion lemma
each, and the fields each leaves alone. -/

namespace Sys2Proof.Machine

/-- Everything `resolvePwmParent` can do: the handle is cached; or the name is not found; or it is
found and cached. -/
theorem resolvePwmParent_cases (s : State) :
    (∃ h, s.pwmClk = .resolved h ∧ resolvePwmParent s = (some h, s)) ∨
    (s.pwmClk = .unresolved ∧ s.collab.nextResolve = none ∧
      resolvePwmParent s = (none, (clkResolve s.cfg.pwmParentClkName s).2)) ∨
    (∃ h, s.pwmClk = .unresolved ∧ s.collab.nextResolve = some h ∧
      resolvePwmParent s = (some h, { (clkResolve s.cfg.pwmParentClkName s).2 with pwmClk := .resolved h })) := by
  unfold resolvePwmParent
  cases hc : s.pwmClk with
  | resolved h => exact .inl ⟨h, rfl, rfl⟩
  | unresolved =>
    cases hr : s.collab.nextResolve with
    | none => exact .inr (.inl ⟨rfl, rfl, by simp [clkResolve, hr]⟩)
    | some h => exact .inr (.inr ⟨h, rfl, rfl, by simp [clkResolve, hr]⟩)

@[simp] theorem resolvePwmParent_snd_control (s : State) :
    ((resolvePwmParent s).2).control = s.control := by
  rcases resolvePwmParent_cases s with ⟨_, _, h⟩ | ⟨_, _, h⟩ | ⟨_, _, _, h⟩ <;> simp [h]
@[simp] theorem resolvePwmParent_snd_arg (s : State) :
    ((resolvePwmParent s).2).arg = s.arg := by
  rcases resolvePwmParent_cases s with ⟨_, _, h⟩ | ⟨_, _, h⟩ | ⟨_, _, _, h⟩ <;> simp [h]
@[simp] theorem resolvePwmParent_snd_result (s : State) :
    ((resolvePwmParent s).2).result = s.result := by
  rcases resolvePwmParent_cases s with ⟨_, _, h⟩ | ⟨_, _, h⟩ | ⟨_, _, _, h⟩ <;> simp [h]
@[simp] theorem resolvePwmParent_snd_status (s : State) :
    ((resolvePwmParent s).2).status = s.status := by
  rcases resolvePwmParent_cases s with ⟨_, _, h⟩ | ⟨_, _, h⟩ | ⟨_, _, _, h⟩ <;> simp [h]
@[simp] theorem resolvePwmParent_snd_tcfg0 (s : State) :
    ((resolvePwmParent s).2).tcfg0 = s.tcfg0 := by
  rcases resolvePwmParent_cases s with ⟨_, _, h⟩ | ⟨_, _, h⟩ | ⟨_, _, _, h⟩ <;> simp [h]
@[simp] theorem resolvePwmParent_snd_tcfg1 (s : State) :
    ((resolvePwmParent s).2).tcfg1 = s.tcfg1 := by
  rcases resolvePwmParent_cases s with ⟨_, _, h⟩ | ⟨_, _, h⟩ | ⟨_, _, _, h⟩ <;> simp [h]
@[simp] theorem resolvePwmParent_snd_tcon (s : State) :
    ((resolvePwmParent s).2).tcon = s.tcon := by
  rcases resolvePwmParent_cases s with ⟨_, _, h⟩ | ⟨_, _, h⟩ | ⟨_, _, _, h⟩ <;> simp [h]
@[simp] theorem resolvePwmParent_snd_tcntb (s : State) :
    ((resolvePwmParent s).2).tcntb = s.tcntb := by
  rcases resolvePwmParent_cases s with ⟨_, _, h⟩ | ⟨_, _, h⟩ | ⟨_, _, _, h⟩ <;> simp [h]
@[simp] theorem resolvePwmParent_snd_tcmpb (s : State) :
    ((resolvePwmParent s).2).tcmpb = s.tcmpb := by
  rcases resolvePwmParent_cases s with ⟨_, _, h⟩ | ⟨_, _, h⟩ | ⟨_, _, _, h⟩ <;> simp [h]
@[simp] theorem resolvePwmParent_snd_clksel (s : State) :
    ((resolvePwmParent s).2).clksel = s.clksel := by
  rcases resolvePwmParent_cases s with ⟨_, _, h⟩ | ⟨_, _, h⟩ | ⟨_, _, _, h⟩ <;> simp [h]
@[simp] theorem resolvePwmParent_snd_clkdly (s : State) :
    ((resolvePwmParent s).2).clkdly = s.clkdly := by
  rcases resolvePwmParent_cases s with ⟨_, _, h⟩ | ⟨_, _, h⟩ | ⟨_, _, _, h⟩ <;> simp [h]
@[simp] theorem resolvePwmParent_snd_mmcClk (s : State) :
    ((resolvePwmParent s).2).mmcClk = s.mmcClk := by
  rcases resolvePwmParent_cases s with ⟨_, _, h⟩ | ⟨_, _, h⟩ | ⟨_, _, _, h⟩ <;> simp [h]
@[simp] theorem resolvePwmParent_snd_cfg (s : State) :
    ((resolvePwmParent s).2).cfg = s.cfg := by
  rcases resolvePwmParent_cases s with ⟨_, _, h⟩ | ⟨_, _, h⟩ | ⟨_, _, _, h⟩ <;> simp [h]
@[simp] theorem resolvePwmParent_snd_lastRead (s : State) :
    ((resolvePwmParent s).2).lastRead = s.lastRead := by
  rcases resolvePwmParent_cases s with ⟨_, _, h⟩ | ⟨_, _, h⟩ | ⟨_, _, _, h⟩ <;> simp [h]
@[simp] theorem resolvePwmParent_snd_pending (s : State) :
    ((resolvePwmParent s).2).pending = s.pending := by
  rcases resolvePwmParent_cases s with ⟨_, _, h⟩ | ⟨_, _, h⟩ | ⟨_, _, _, h⟩ <;> simp [h]

/-- Everything `resolveMmcClock` can do: the handle is cached; or the name is not found; or it is
found and cached. -/
theorem resolveMmcClock_cases (s : State) :
    (∃ h, s.mmcClk = .resolved h ∧ resolveMmcClock s = (some h, s)) ∨
    (s.mmcClk = .unresolved ∧ s.collab.nextResolve = none ∧
      resolveMmcClock s = (none, (clkResolve (mmcClkName s.cfg) s).2)) ∨
    (∃ h, s.mmcClk = .unresolved ∧ s.collab.nextResolve = some h ∧
      resolveMmcClock s = (some h, { (clkResolve (mmcClkName s.cfg) s).2 with mmcClk := .resolved h })) := by
  unfold resolveMmcClock
  cases hc : s.mmcClk with
  | resolved h => exact .inl ⟨h, rfl, rfl⟩
  | unresolved =>
    cases hr : s.collab.nextResolve with
    | none => exact .inr (.inl ⟨rfl, rfl, by simp [clkResolve, hr]⟩)
    | some h => exact .inr (.inr ⟨h, rfl, rfl, by simp [clkResolve, hr]⟩)

@[simp] theorem resolveMmcClock_snd_control (s : State) :
    ((resolveMmcClock s).2).control = s.control := by
  rcases resolveMmcClock_cases s with ⟨_, _, h⟩ | ⟨_, _, h⟩ | ⟨_, _, _, h⟩ <;> simp [h]
@[simp] theorem resolveMmcClock_snd_arg (s : State) :
    ((resolveMmcClock s).2).arg = s.arg := by
  rcases resolveMmcClock_cases s with ⟨_, _, h⟩ | ⟨_, _, h⟩ | ⟨_, _, _, h⟩ <;> simp [h]
@[simp] theorem resolveMmcClock_snd_result (s : State) :
    ((resolveMmcClock s).2).result = s.result := by
  rcases resolveMmcClock_cases s with ⟨_, _, h⟩ | ⟨_, _, h⟩ | ⟨_, _, _, h⟩ <;> simp [h]
@[simp] theorem resolveMmcClock_snd_status (s : State) :
    ((resolveMmcClock s).2).status = s.status := by
  rcases resolveMmcClock_cases s with ⟨_, _, h⟩ | ⟨_, _, h⟩ | ⟨_, _, _, h⟩ <;> simp [h]
@[simp] theorem resolveMmcClock_snd_tcfg0 (s : State) :
    ((resolveMmcClock s).2).tcfg0 = s.tcfg0 := by
  rcases resolveMmcClock_cases s with ⟨_, _, h⟩ | ⟨_, _, h⟩ | ⟨_, _, _, h⟩ <;> simp [h]
@[simp] theorem resolveMmcClock_snd_tcfg1 (s : State) :
    ((resolveMmcClock s).2).tcfg1 = s.tcfg1 := by
  rcases resolveMmcClock_cases s with ⟨_, _, h⟩ | ⟨_, _, h⟩ | ⟨_, _, _, h⟩ <;> simp [h]
@[simp] theorem resolveMmcClock_snd_tcon (s : State) :
    ((resolveMmcClock s).2).tcon = s.tcon := by
  rcases resolveMmcClock_cases s with ⟨_, _, h⟩ | ⟨_, _, h⟩ | ⟨_, _, _, h⟩ <;> simp [h]
@[simp] theorem resolveMmcClock_snd_tcntb (s : State) :
    ((resolveMmcClock s).2).tcntb = s.tcntb := by
  rcases resolveMmcClock_cases s with ⟨_, _, h⟩ | ⟨_, _, h⟩ | ⟨_, _, _, h⟩ <;> simp [h]
@[simp] theorem resolveMmcClock_snd_tcmpb (s : State) :
    ((resolveMmcClock s).2).tcmpb = s.tcmpb := by
  rcases resolveMmcClock_cases s with ⟨_, _, h⟩ | ⟨_, _, h⟩ | ⟨_, _, _, h⟩ <;> simp [h]
@[simp] theorem resolveMmcClock_snd_clksel (s : State) :
    ((resolveMmcClock s).2).clksel = s.clksel := by
  rcases resolveMmcClock_cases s with ⟨_, _, h⟩ | ⟨_, _, h⟩ | ⟨_, _, _, h⟩ <;> simp [h]
@[simp] theorem resolveMmcClock_snd_clkdly (s : State) :
    ((resolveMmcClock s).2).clkdly = s.clkdly := by
  rcases resolveMmcClock_cases s with ⟨_, _, h⟩ | ⟨_, _, h⟩ | ⟨_, _, _, h⟩ <;> simp [h]
@[simp] theorem resolveMmcClock_snd_pwmClk (s : State) :
    ((resolveMmcClock s).2).pwmClk = s.pwmClk := by
  rcases resolveMmcClock_cases s with ⟨_, _, h⟩ | ⟨_, _, h⟩ | ⟨_, _, _, h⟩ <;> simp [h]
@[simp] theorem resolveMmcClock_snd_cfg (s : State) :
    ((resolveMmcClock s).2).cfg = s.cfg := by
  rcases resolveMmcClock_cases s with ⟨_, _, h⟩ | ⟨_, _, h⟩ | ⟨_, _, _, h⟩ <;> simp [h]
@[simp] theorem resolveMmcClock_snd_lastRead (s : State) :
    ((resolveMmcClock s).2).lastRead = s.lastRead := by
  rcases resolveMmcClock_cases s with ⟨_, _, h⟩ | ⟨_, _, h⟩ | ⟨_, _, _, h⟩ <;> simp [h]
@[simp] theorem resolveMmcClock_snd_pending (s : State) :
    ((resolveMmcClock s).2).pending = s.pending := by
  rcases resolveMmcClock_cases s with ⟨_, _, h⟩ | ⟨_, _, h⟩ | ⟨_, _, _, h⟩ <;> simp [h]

end Sys2Proof.Machine
end

