-- ==== Sys2Proof/Laws/Pwm.lean ====
section
/-! SUPPORT. What the helpers of the PWM engine can do (40_pwm.md R85 to R91), said once each. -/

namespace Sys2Proof.Machine

/-- A channel below 5 passes the check (40_pwm.md R85). -/
@[simp] theorem checkChannel_val (ch : Channel) : checkChannel ch.val = some ch := by
  simp [checkChannel]

/-- A channel of 5 or more does not (40_pwm.md R85). -/
theorem checkChannel_none (ch : Nat) (h : 5 ≤ ch) : checkChannel ch = none := by
  simp [checkChannel, h]

/-- What the channel check can answer. -/
theorem checkChannel_cases (ch : Nat) :
    (5 ≤ ch ∧ checkChannel ch = none) ∨ ∃ c : Channel, ch = c.val ∧ checkChannel ch = some c := by
  by_cases h : ch < 5
  · exact .inr ⟨⟨ch, h⟩, rfl, by simp [checkChannel, h]⟩
  · exact .inl ⟨by omega, checkChannel_none ch (by omega)⟩

/-- The first divider of 2, 4, 8, 16 that qualifies, or 16 (40_pwm.md R88). -/
theorem tinSearch_eq (c : Config) (freq parent : Word) :
    tinSearch c freq parent =
      let pick := fun (d : Nat) => match c.searchReturn with
        | .divide => parent / BitVec.ofNat 32 d
        | .shiftByDiv => parent >>> d
      if parent / 131072#32 < freq then pick 2
      else if parent / 262144#32 < freq then pick 4
      else if parent / 524288#32 < freq then pick 8
      else if parent / 1048576#32 < freq then pick 16
      else parent / 16#32 := rfl

@[simp] theorem tinFixedReadback_snd_control (ch : Channel) (parent : Word) (s : State) :
    ((tinFixedReadback ch parent s).2).control = s.control := by
  simp [tinFixedReadback]
@[simp] theorem tinFixedReadback_snd_arg (ch : Channel) (parent : Word) (s : State) :
    ((tinFixedReadback ch parent s).2).arg = s.arg := by
  simp [tinFixedReadback]
@[simp] theorem tinFixedReadback_snd_result (ch : Channel) (parent : Word) (s : State) :
    ((tinFixedReadback ch parent s).2).result = s.result := by
  simp [tinFixedReadback]
@[simp] theorem tinFixedReadback_snd_status (ch : Channel) (parent : Word) (s : State) :
    ((tinFixedReadback ch parent s).2).status = s.status := by
  simp [tinFixedReadback]
@[simp] theorem tinFixedReadback_snd_tcon (ch : Channel) (parent : Word) (s : State) :
    ((tinFixedReadback ch parent s).2).tcon = s.tcon := by
  simp [tinFixedReadback]
@[simp] theorem tinFixedReadback_snd_tcntb (ch : Channel) (parent : Word) (s : State) :
    ((tinFixedReadback ch parent s).2).tcntb = s.tcntb := by
  simp [tinFixedReadback]
@[simp] theorem tinFixedReadback_snd_tcmpb (ch : Channel) (parent : Word) (s : State) :
    ((tinFixedReadback ch parent s).2).tcmpb = s.tcmpb := by
  simp [tinFixedReadback]
@[simp] theorem tinFixedReadback_snd_clksel (ch : Channel) (parent : Word) (s : State) :
    ((tinFixedReadback ch parent s).2).clksel = s.clksel := by
  simp [tinFixedReadback]
@[simp] theorem tinFixedReadback_snd_clkdly (ch : Channel) (parent : Word) (s : State) :
    ((tinFixedReadback ch parent s).2).clkdly = s.clkdly := by
  simp [tinFixedReadback]
@[simp] theorem tinFixedReadback_snd_pwmClk (ch : Channel) (parent : Word) (s : State) :
    ((tinFixedReadback ch parent s).2).pwmClk = s.pwmClk := by
  simp [tinFixedReadback]
@[simp] theorem tinFixedReadback_snd_mmcClk (ch : Channel) (parent : Word) (s : State) :
    ((tinFixedReadback ch parent s).2).mmcClk = s.mmcClk := by
  simp [tinFixedReadback]
@[simp] theorem tinFixedReadback_snd_cfg (ch : Channel) (parent : Word) (s : State) :
    ((tinFixedReadback ch parent s).2).cfg = s.cfg := by
  simp [tinFixedReadback]
@[simp] theorem tinFixedReadback_snd_lastRead (ch : Channel) (parent : Word) (s : State) :
    ((tinFixedReadback ch parent s).2).lastRead = s.lastRead := by
  simp [tinFixedReadback]
@[simp] theorem tinFixedReadback_snd_pending (ch : Channel) (parent : Word) (s : State) :
    ((tinFixedReadback ch parent s).2).pending = s.pending := by
  simp [tinFixedReadback]
@[simp] theorem tinFixedReadback_snd_collab (ch : Channel) (parent : Word) (s : State) :
    ((tinFixedReadback ch parent s).2).collab = s.collab := by
  simp [tinFixedReadback]

/-- Everything `deriveTin` can do: the clock is not found; or a rate comes from the fixed readback; or from
the search (40_pwm.md R89). -/
theorem deriveTin_cases (ch : Channel) (freq : Word) (s : State) :
    ((resolvePwmParent s).1 = none ∧ deriveTin ch freq s = (none, (resolvePwmParent s).2)) ∨
    (∃ h, (resolvePwmParent s).1 = some h ∧ s.cfg.tinPolicy = .fixedReadback ∧
      deriveTin ch freq s =
        (some (tinFixedReadback ch (clkGetRate h (resolvePwmParent s).2).1
                (clkGetRate h (resolvePwmParent s).2).2).1,
          (tinFixedReadback ch (clkGetRate h (resolvePwmParent s).2).1
                (clkGetRate h (resolvePwmParent s).2).2).2)) ∨
    (∃ h, (resolvePwmParent s).1 = some h ∧ s.cfg.tinPolicy = .search ∧
      deriveTin ch freq s =
        (some (tinSearch s.cfg freq (clkGetRate h (resolvePwmParent s).2).1),
          (clkGetRate h (resolvePwmParent s).2).2)) := by
  unfold deriveTin
  rcases hr : resolvePwmParent s with ⟨o, s1⟩
  have hcfg : s1.cfg = s.cfg := by
    have := resolvePwmParent_snd_cfg s
    rwa [hr] at this
  cases o with
  | none => exact .inl ⟨rfl, rfl⟩
  | some h =>
    cases hp : s.cfg.tinPolicy with
    | fixedReadback => exact .inr (.inl ⟨h, rfl, rfl, by simp [hcfg, hp]⟩)
    | search => exact .inr (.inr ⟨h, rfl, rfl, by simp [hcfg, hp]⟩)

@[simp] theorem deriveTin_snd_control (ch : Channel) (freq : Word) (s : State) :
    ((deriveTin ch freq s).2).control = s.control := by
  rcases deriveTin_cases ch freq s with ⟨_, h⟩ | ⟨_, _, _, h⟩ | ⟨_, _, _, h⟩ <;> simp [h]
@[simp] theorem deriveTin_snd_arg (ch : Channel) (freq : Word) (s : State) :
    ((deriveTin ch freq s).2).arg = s.arg := by
  rcases deriveTin_cases ch freq s with ⟨_, h⟩ | ⟨_, _, _, h⟩ | ⟨_, _, _, h⟩ <;> simp [h]
@[simp] theorem deriveTin_snd_result (ch : Channel) (freq : Word) (s : State) :
    ((deriveTin ch freq s).2).result = s.result := by
  rcases deriveTin_cases ch freq s with ⟨_, h⟩ | ⟨_, _, _, h⟩ | ⟨_, _, _, h⟩ <;> simp [h]
@[simp] theorem deriveTin_snd_status (ch : Channel) (freq : Word) (s : State) :
    ((deriveTin ch freq s).2).status = s.status := by
  rcases deriveTin_cases ch freq s with ⟨_, h⟩ | ⟨_, _, _, h⟩ | ⟨_, _, _, h⟩ <;> simp [h]
@[simp] theorem deriveTin_snd_tcon (ch : Channel) (freq : Word) (s : State) :
    ((deriveTin ch freq s).2).tcon = s.tcon := by
  rcases deriveTin_cases ch freq s with ⟨_, h⟩ | ⟨_, _, _, h⟩ | ⟨_, _, _, h⟩ <;> simp [h]
@[simp] theorem deriveTin_snd_tcntb (ch : Channel) (freq : Word) (s : State) :
    ((deriveTin ch freq s).2).tcntb = s.tcntb := by
  rcases deriveTin_cases ch freq s with ⟨_, h⟩ | ⟨_, _, _, h⟩ | ⟨_, _, _, h⟩ <;> simp [h]
@[simp] theorem deriveTin_snd_tcmpb (ch : Channel) (freq : Word) (s : State) :
    ((deriveTin ch freq s).2).tcmpb = s.tcmpb := by
  rcases deriveTin_cases ch freq s with ⟨_, h⟩ | ⟨_, _, _, h⟩ | ⟨_, _, _, h⟩ <;> simp [h]
@[simp] theorem deriveTin_snd_clksel (ch : Channel) (freq : Word) (s : State) :
    ((deriveTin ch freq s).2).clksel = s.clksel := by
  rcases deriveTin_cases ch freq s with ⟨_, h⟩ | ⟨_, _, _, h⟩ | ⟨_, _, _, h⟩ <;> simp [h]
@[simp] theorem deriveTin_snd_clkdly (ch : Channel) (freq : Word) (s : State) :
    ((deriveTin ch freq s).2).clkdly = s.clkdly := by
  rcases deriveTin_cases ch freq s with ⟨_, h⟩ | ⟨_, _, _, h⟩ | ⟨_, _, _, h⟩ <;> simp [h]
@[simp] theorem deriveTin_snd_mmcClk (ch : Channel) (freq : Word) (s : State) :
    ((deriveTin ch freq s).2).mmcClk = s.mmcClk := by
  rcases deriveTin_cases ch freq s with ⟨_, h⟩ | ⟨_, _, _, h⟩ | ⟨_, _, _, h⟩ <;> simp [h]
@[simp] theorem deriveTin_snd_cfg (ch : Channel) (freq : Word) (s : State) :
    ((deriveTin ch freq s).2).cfg = s.cfg := by
  rcases deriveTin_cases ch freq s with ⟨_, h⟩ | ⟨_, _, _, h⟩ | ⟨_, _, _, h⟩ <;> simp [h]
@[simp] theorem deriveTin_snd_lastRead (ch : Channel) (freq : Word) (s : State) :
    ((deriveTin ch freq s).2).lastRead = s.lastRead := by
  rcases deriveTin_cases ch freq s with ⟨_, h⟩ | ⟨_, _, _, h⟩ | ⟨_, _, _, h⟩ <;> simp [h]
@[simp] theorem deriveTin_snd_pending (ch : Channel) (freq : Word) (s : State) :
    ((deriveTin ch freq s).2).pending = s.pending := by
  rcases deriveTin_cases ch freq s with ⟨_, h⟩ | ⟨_, _, _, h⟩ | ⟨_, _, _, h⟩ <;> simp [h]

@[simp] theorem updateHandshake_control (ch : Channel) (s : State) :
    (updateHandshake ch s).control = s.control := by
  simp [updateHandshake]
@[simp] theorem updateHandshake_arg (ch : Channel) (s : State) :
    (updateHandshake ch s).arg = s.arg := by
  simp [updateHandshake]
@[simp] theorem updateHandshake_result (ch : Channel) (s : State) :
    (updateHandshake ch s).result = s.result := by
  simp [updateHandshake]
@[simp] theorem updateHandshake_status (ch : Channel) (s : State) :
    (updateHandshake ch s).status = s.status := by
  simp [updateHandshake]
@[simp] theorem updateHandshake_tcfg0 (ch : Channel) (s : State) :
    (updateHandshake ch s).tcfg0 = s.tcfg0 := by
  simp [updateHandshake]
@[simp] theorem updateHandshake_tcfg1 (ch : Channel) (s : State) :
    (updateHandshake ch s).tcfg1 = s.tcfg1 := by
  simp [updateHandshake]
@[simp] theorem updateHandshake_tcntb (ch : Channel) (s : State) :
    (updateHandshake ch s).tcntb = s.tcntb := by
  simp [updateHandshake]
@[simp] theorem updateHandshake_tcmpb (ch : Channel) (s : State) :
    (updateHandshake ch s).tcmpb = s.tcmpb := by
  simp [updateHandshake]
@[simp] theorem updateHandshake_clksel (ch : Channel) (s : State) :
    (updateHandshake ch s).clksel = s.clksel := by
  simp [updateHandshake]
@[simp] theorem updateHandshake_clkdly (ch : Channel) (s : State) :
    (updateHandshake ch s).clkdly = s.clkdly := by
  simp [updateHandshake]
@[simp] theorem updateHandshake_pwmClk (ch : Channel) (s : State) :
    (updateHandshake ch s).pwmClk = s.pwmClk := by
  simp [updateHandshake]
@[simp] theorem updateHandshake_mmcClk (ch : Channel) (s : State) :
    (updateHandshake ch s).mmcClk = s.mmcClk := by
  simp [updateHandshake]
@[simp] theorem updateHandshake_cfg (ch : Channel) (s : State) :
    (updateHandshake ch s).cfg = s.cfg := by
  simp [updateHandshake]
@[simp] theorem updateHandshake_lastRead (ch : Channel) (s : State) :
    (updateHandshake ch s).lastRead = s.lastRead := by
  simp [updateHandshake]
@[simp] theorem updateHandshake_pending (ch : Channel) (s : State) :
    (updateHandshake ch s).pending = s.pending := by
  simp [updateHandshake]
@[simp] theorem updateHandshake_collab (ch : Channel) (s : State) :
    (updateHandshake ch s).collab = s.collab := by
  simp [updateHandshake]

/-- What the update handshake leaves in `tcon` (30_encoding.md R76). -/
@[simp] theorem updateHandshake_tcon (ch : Channel) (s : State) :
    (updateHandshake ch s).tcon = disarmedWord s.cfg ch (armedWord s.cfg ch s.tcon) := by
  simp [updateHandshake]

/-- The three events of the update handshake (40_pwm.md R99). -/
@[simp] theorem updateHandshake_trace (ch : Channel) (s : State) :
    (updateHandshake ch s).trace = s.trace ++
      [.memRead (TargetReg.tcon.addr s.cfg) s.tcon,
       .memWrite (TargetReg.tcon.addr s.cfg) (armedWord s.cfg ch s.tcon),
       .memWrite (TargetReg.tcon.addr s.cfg)
         (disarmedWord s.cfg ch (armedWord s.cfg ch s.tcon))] := by
  simp [updateHandshake]

/-- Every way `pwmTiming` ends well: both divisors are non-zero, the reload comes from `counterReload`, and
the compare value is the inverted, saturated one (40_pwm.md R91 to R93). -/
theorem pwmTiming_ok {c : Config} {period duty tin tcnt tcmp : Word}
    (h : pwmTiming c period duty tin = .ok (tcnt, tcmp)) :
    tin ≠ 0#32 ∧ ns / tin ≠ 0#32 ∧ counterReload c (period / (ns / tin)) = .ok tcnt ∧
      tcmp = tcnt - minWord (duty / (ns / tin)) tcnt := by
  unfold pwmTiming at h
  split at h
  · cases h
  · split at h
    · cases h
    · cases hc : counterReload c (period / (ns / tin)) with
      | error r => simp [hc] at h
      | ok v =>
        simp only [hc, Except.ok.injEq, Prod.mk.injEq] at h
        obtain ⟨rfl, rfl⟩ := h
        exact ⟨‹_›, ‹_›, rfl, rfl⟩

/-- Everything `PWM.SET_CONFIG` can do, in the order of 60_exceptions.md R151. -/
theorem execPwmSetConfig_cases (ch : Nat) (s : State) :
    (5 ≤ ch ∧ execPwmSetConfig ch s = .next (raiseError .unsupportedChannelError s)) ∨
    (ch < 5 ∧ outOfRange (s.operand 0) (s.operand 1) ∧
      execPwmSetConfig ch s = .next (raiseError .rangeError s)) ∨
    (ch < 5 ∧ ¬ outOfRange (s.operand 0) (s.operand 1) ∧ s.operand 0 < s.operand 1 ∧
      execPwmSetConfig ch s = .next (raiseError .invalidError s)) ∨
    (∃ c : Channel, ch = c.val ∧ ¬ outOfRange (s.operand 0) (s.operand 1) ∧
      ¬ s.operand 0 < s.operand 1 ∧
      ((deriveTin c (ns / s.operand 0) s).1 = none ∧
        execPwmSetConfig ch s =
          .next (raiseError .clockResolutionError (deriveTin c (ns / s.operand 0) s).2) ∨
      ∃ tin, (deriveTin c (ns / s.operand 0) s).1 = some tin ∧
        ((∃ r, pwmTiming s.cfg (s.operand 0) (s.operand 1) tin = .error r ∧
          execPwmSetConfig ch s = .next (raiseFault r (deriveTin c (ns / s.operand 0) s).2)) ∨
        (∃ tcnt tcmp, pwmTiming s.cfg (s.operand 0) (s.operand 1) tin = .ok (tcnt, tcmp) ∧
          execPwmSetConfig ch s = .next (succeed (updateHandshake c (memWrite (.tcmpb c) tcmp
            (memWrite (.tcntb c) tcnt (deriveTin c (ns / s.operand 0) s).2)))))))) := by
  unfold execPwmSetConfig
  rcases checkChannel_cases ch with ⟨h, hc⟩ | ⟨c, rfl, hc⟩
  · exact .inl ⟨h, by simp [hc]⟩
  · refine .inr ?_
    simp only [hc]
    by_cases hr : outOfRange (s.operand 0) (s.operand 1)
    · exact .inl ⟨c.isLt, hr, by rw [if_pos hr]⟩
    refine .inr ?_
    rw [if_neg hr]
    by_cases hi : s.operand 0 < s.operand 1
    · exact .inl ⟨c.isLt, hr, hi, by rw [if_pos hi]⟩
    refine .inr ⟨c, rfl, hr, hi, ?_⟩
    rw [if_neg hi]
    have hcfg := deriveTin_snd_cfg c (ns / s.operand 0) s
    rcases hd : deriveTin c (ns / s.operand 0) s with ⟨o, s1⟩
    rw [hd] at hcfg
    cases o with
    | none => exact .inl ⟨rfl, rfl⟩
    | some tin =>
      refine .inr ⟨tin, rfl, ?_⟩
      simp only at hcfg ⊢
      rw [hcfg]
      cases ht : pwmTiming s.cfg (s.operand 0) (s.operand 1) tin with
      | error r => exact .inl ⟨r, rfl, rfl⟩
      | ok v => exact .inr ⟨v.1, v.2, rfl, rfl⟩

end Sys2Proof.Machine
end

