-- ==== Sys2Proof/Laws/Step.lean ====
section
/-! SUPPORT. What a command, an event and a step can do, said once each: every command answers a next state;
the outcomes of a launch, of a host access and of a step. -/

namespace Sys2Proof.Machine

/-- Every command ends in a next state: its errors and faults are next states too (60_exceptions.md R145). -/
theorem exec_answers_next (i : Instr) (s : State) : ∃ t, exec i s = .next t := by
  cases i <;> exact ⟨_, rfl⟩

/-- Everything a `CMD` write can do (10_state.md R26). -/
theorem launch_cases (w : Word) (s : State) :
    (s.control = .faulted ∧ launch w s = .next s) ∨
    (s.control = .idle ∧ ∃ i, decode w = .ok i ∧ launch w s = exec i s) ∨
    (s.control = .idle ∧ ∃ e, decode w = .error e ∧ launch w s = .next (rejectIllegal s)) := by
  unfold launch
  cases hc : s.control with
  | faulted => exact .inl ⟨rfl, rfl⟩
  | idle =>
    cases hd : decode w with
    | ok i => exact .inr (.inl ⟨rfl, i, rfl, rfl⟩)
    | error e => exact .inr (.inr ⟨rfl, e, rfl, rfl⟩)

/-- Every write that reaches a port register is taken (10_state.md R21). -/
theorem portWrite_answers_next (r : PortReg) (v : Word) (s : State) :
    ∃ t, portWrite r v s = .next t := by
  cases r with
  | cmd =>
    rcases launch_cases v s with ⟨_, h⟩ | ⟨_, i, _, h⟩ | ⟨_, _, _, h⟩
    · exact ⟨_, h⟩
    · obtain ⟨t, ht⟩ := exec_answers_next i s
      exact ⟨t, h.trans ht⟩
    · exact ⟨_, h⟩
  | arg i => exact ⟨_, rfl⟩
  | result => exact ⟨_, rfl⟩
  | status => exact ⟨_, rfl⟩

/-- Everything that an event can do when it answers a next state. -/
theorem perform_next {e : HostEvent} {s t : State} (h : perform e s = .next t) :
    (∃ addr r, e = .read addr 32 ∧ portAccess s.cfg addr 32 = .ok r ∧
      t = { s with lastRead := some (s.portValue r) }) ∨
    (∃ addr r v, e = .write addr 32 v ∧ portAccess s.cfg addr 32 = .ok r ∧ portWrite r v s = .next t) ∨
    (∃ c, e = .reset c ∧ c.Ok ∧ t = resetBlock c s) := by
  have width : ∀ addr bits r, portAccess s.cfg addr bits = .ok r → bits = 32 := by
    intro addr bits r hr
    by_contra hb
    simp [portAccess, hb] at hr
  cases e with
  | read addr bits =>
    simp only [perform] at h
    cases ha : portAccess s.cfg addr bits with
    | ok r =>
      obtain rfl := width addr bits r ha
      simp only [ha, Host.Outcome.next.injEq] at h
      exact .inl ⟨addr, r, rfl, ha, h.symm⟩
    | error w => simp [ha] at h
  | write addr bits v =>
    simp only [perform] at h
    cases ha : portAccess s.cfg addr bits with
    | ok r =>
      obtain rfl := width addr bits r ha
      simp only [ha] at h
      exact .inr (.inl ⟨addr, r, v, rfl, ha, h⟩)
    | error w => simp [ha] at h
  | reset c =>
    simp only [perform] at h
    split at h
    · simp only [Host.Outcome.next.injEq] at h
      exact .inr (.inr ⟨c, rfl, ‹_›, h.symm⟩)
    · cases h

/-- Everything a step can do. -/
theorem step_cases (s : State) :
    (s.pending = [] ∧ step s = .next s) ∨
    (∃ e rest, s.pending = e :: rest ∧ step s = perform e { s with pending := rest }) := by
  unfold step hostStep
  cases hp : s.pending with
  | nil => exact .inl ⟨rfl, rfl⟩
  | cons e rest => exact .inr ⟨e, rest, rfl, rfl⟩

/-- With the next event known, a step performs it. -/
theorem step_pending {s : State} {e : HostEvent} {rest : List HostEvent} (h : s.pending = e :: rest) :
    step s = perform e { s with pending := rest } := by
  unfold step hostStep
  rw [h]

/-- An access to the address of `CMD` reaches it (10_state.md R21). -/
theorem portAccess_cmd (c : Config) (h : c.portBase.toNat % 4 = 0) :
    portAccess c c.portBase 32 = .ok .cmd := by
  simp [portAccess, h, portRegAt]

end Sys2Proof.Machine
end

