-- ==== Sys2Proof/Laws/Assembler.lean ====
section
/-! SUPPORT. What assembling a line can do, and what a step does with the host writes that a line stands for
(30_encoding.md R72). -/

namespace Sys2Proof.Machine

/-- A run whose first step answers a next state goes on from there. -/
theorem run_succ {M : Host.Core} {n : Nat} {s t : M.State} (h : M.step s = .next t) :
    M.run (n + 1) s = M.run n t := by
  show (match M.step s with
    | .next s' => M.run n s'
    | .fault r => .fault r
    | .refused r => .refused r) = M.run n t
  rw [h]

/-- An assembled line is one the assembler accepts. -/
theorem assemble_some {c : Config} {l : AsmLine} {events : List HostEvent} (h : assemble c l = some events) :
    l.wellFormed = true ∧ events = l.events c := by
  unfold assemble at h
  cases hw : l.wellFormed with
  | true => simpa [hw, eq_comm] using h
  | false => simp [hw] at h

/-- A step that performs an `ARG` write (10_state.md R21, R22). -/
theorem step_argWrite {s : State} {rest : List HostEvent} (hb : s.cfg.portBase.toNat % 4 = 0) (i : Fin 4)
    (v : Word) :
    step { s with pending := .write (s.cfg.portBase + BitVec.ofNat 32 (0x04 + 4 * i.val)) 32 v :: rest } =
      .next { s with arg := s.arg.set i.val v, pending := rest } := by
  rw [step_pending rfl]
  have ha := portAccess_offset s.cfg hb (i.val + 1)
  rw [(by decide : ∀ i : Fin 4, portRegAt (BitVec.ofNat 32 (4 * (i.val + 1))) = some (.arg i)) i,
    show 4 * (i.val + 1) = 4 + 4 * i.val by omega] at ha
  simp only [perform, ha, portWrite]

/-- A step that performs a `CMD` write of an idle block (10_state.md R26). -/
theorem step_cmdWrite {s : State} {rest : List HostEvent} (hb : s.cfg.portBase.toNat % 4 = 0)
    (hc : s.control = .idle) {w : Word} {i : Instr} (hd : decode w = .ok i) :
    step { s with pending := .write s.cfg.portBase 32 w :: rest } = exec i { s with pending := rest } := by
  rw [step_pending rfl]
  simp only [perform, portAccess_cmd s.cfg hb, portWrite, launch, hc, hd]

end Sys2Proof.Machine
end

