-- ==== Sys2Proof/Laws/Effects.lean ====
section
/-! SUPPORT. The shared operations in closed form, in the claims' terms: resolving a clock, deriving the timer
input rate, the update handshake. Callers cite these and do not unfold the operations. -/

namespace Sys2Proof.Machine

/-- A cache that resolves either gives a handle or is not found (40_pwm.md R86). -/
theorem pwmClock_cases (s : State) : (∃ h, s.PwmClockIs h) ∨ s.PwmClockNotFound := by
  cases hc : s.pwmClk with
  | resolved h => exact .inl ⟨h, .inl hc⟩
  | unresolved =>
    cases hr : s.collab.nextResolve with
    | none => exact .inr ⟨hc, hr⟩
    | some h => exact .inl ⟨h, .inr ⟨hc, hr⟩⟩

/-- The same for the MMC clock (41_mmc.md R120). -/
theorem mmcClock_cases (s : State) : (∃ h, s.MmcClockIs h) ∨ s.MmcClockNotFound := by
  cases hc : s.mmcClk with
  | resolved h => exact .inl ⟨h, .inl hc⟩
  | unresolved =>
    cases hr : s.collab.nextResolve with
    | none => exact .inr ⟨hc, hr⟩
    | some h => exact .inl ⟨h, .inr ⟨hc, hr⟩⟩

theorem pwmClock_not_both {s : State} {h : Handle} (hi : s.PwmClockIs h) : ¬ s.PwmClockNotFound := by
  rintro ⟨hu, hn⟩
  rcases hi with hi | ⟨_, hi⟩
  · simp [hi] at hu
  · simp [hi] at hn

theorem mmcClock_not_both {s : State} {h : Handle} (hi : s.MmcClockIs h) : ¬ s.MmcClockNotFound := by
  rintro ⟨hu, hn⟩
  rcases hi with hi | ⟨_, hi⟩
  · simp [hi] at hu
  · simp [hi] at hn

/-- Resolving the PWM parent clock when it is there (40_pwm.md R86). -/
theorem resolvePwmParent_of_is {s : State} {h : Handle} (hi : s.PwmClockIs h) :
    resolvePwmParent s = (some h,
      { s with
        pwmClk := .resolved h
        collab := collabAfterResolve s.pwmClk s.collab
        trace := s.trace ++ resolveEvents s.pwmClk s.cfg.pwmParentClkName s.collab }) := by
  rcases hi with hi | ⟨hu, hr⟩
  · simp only [resolvePwmParent, hi, collabAfterResolve, resolveEvents, List.append_nil]
    rw [← hi]
  · simp [resolvePwmParent, hu, clkResolve, hr, collabAfterResolve, resolveEvents, State.log]

/-- Resolving the PWM parent clock when it is not found (40_pwm.md R86). -/
theorem resolvePwmParent_of_notFound {s : State} (hn : s.PwmClockNotFound) :
    resolvePwmParent s = (none, s.afterNotFound s.cfg.pwmParentClkName) := by
  obtain ⟨hu, hr⟩ := hn
  simp [resolvePwmParent, hu, clkResolve, hr, State.afterNotFound, State.log]

/-- Resolving the MMC clock when it is there (41_mmc.md R120). -/
theorem resolveMmcClock_of_is {s : State} {h : Handle} (hi : s.MmcClockIs h) :
    resolveMmcClock s = (some h,
      { s with
        mmcClk := .resolved h
        collab := collabAfterResolve s.mmcClk s.collab
        trace := s.trace ++ resolveEvents s.mmcClk (mmcClkName s.cfg) s.collab }) := by
  rcases hi with hi | ⟨hu, hr⟩
  · simp only [resolveMmcClock, hi, collabAfterResolve, resolveEvents, List.append_nil]
    rw [← hi]
  · simp [resolveMmcClock, hu, clkResolve, hr, collabAfterResolve, resolveEvents, State.log]

/-- Resolving the MMC clock when it is not found (41_mmc.md R120). -/
theorem resolveMmcClock_of_notFound {s : State} (hn : s.MmcClockNotFound) :
    resolveMmcClock s = (none, s.afterNotFound (mmcClkName s.cfg)) := by
  obtain ⟨hu, hr⟩ := hn
  simp [resolveMmcClock, hu, clkResolve, hr, State.afterNotFound, State.log]

/-- The four accesses of the fixed readback, and the rate they give (40_pwm.md R87, 10_state.md R33). -/
theorem tinFixedReadback_eq (ch : Channel) (parent : Word) (s : State) :
    tinFixedReadback ch parent s =
      (fixedReadbackRate s.cfg ch parent (readback0 s.cfg) (readback1 s.cfg),
       { s with
         tcfg0 := readback0 s.cfg
         tcfg1 := readback1 s.cfg
         trace := s.trace ++
           [.memWrite (TargetReg.tcfg0.addr s.cfg) 0#32, .memRead (TargetReg.tcfg0.addr s.cfg) (readback0 s.cfg),
            .memWrite (TargetReg.tcfg1.addr s.cfg) 0#32,
            .memRead (TargetReg.tcfg1.addr s.cfg) (readback1 s.cfg)] }) := by
  cases hr : s.cfg.tcfgReadback <;>
    simp [tinFixedReadback, memRead, memWrite, State.setReg, State.log, storedValue, State.readValue,
      State.reg, readback0, readback1, hr]

/-- The derivation when the clock is there (40_pwm.md R89). -/
theorem deriveTin_of_is {s : State} {h : Handle} (hi : s.PwmClockIs h) (ch : Channel) (freq : Word) :
    deriveTin ch freq s = (some (s.derivedRate ch freq), s.afterDerive h) := by
  unfold deriveTin
  rw [resolvePwmParent_of_is hi]
  cases hp : s.cfg.tinPolicy <;>
    simp [clkGetRate, State.log, hp, tinFixedReadback_eq, State.afterDerive, State.derivedRate,
      State.deriveEvents, readbackEvents, State.pwmRate]

/-- The derivation when the clock is not found (40_pwm.md R86, R89). -/
theorem deriveTin_of_notFound {s : State} (hn : s.PwmClockNotFound) (ch : Channel) (freq : Word) :
    deriveTin ch freq s = (none, s.afterNotFound s.cfg.pwmParentClkName) := by
  unfold deriveTin
  rw [resolvePwmParent_of_notFound hn]

/-- The reload and compare writes and the update handshake of `PWM.SET_CONFIG`, as one update (40_pwm.md
R91). -/
theorem configWrites_eq (c : Channel) (tcnt tcmp : Word) (s : State) :
    succeed (updateHandshake c (memWrite (.tcmpb c) tcmp (memWrite (.tcntb c) tcnt s))) =
      { s with
        tcntb := s.tcntb.set c.val tcnt
        tcmpb := s.tcmpb.set c.val tcmp
        tcon := disarmedWord s.cfg c (armedWord s.cfg c s.tcon)
        status := setCode s.status okCode
        trace := s.trace ++ s.configEvents c tcnt tcmp } := by
  simp [succeed, updateHandshake, memRead, memWrite, State.setReg, State.log, State.configEvents]

/-- `PWM.DERIVE_TIN` on an existing channel with the clock there. -/
theorem execPwmDeriveTin_of_is {s : State} {h : Handle} (hi : s.PwmClockIs h) (ch : Channel) :
    execPwmDeriveTin ch.val s = .next (succeedWith (s.derivedRate ch (s.operand 0)) (s.afterDerive h)) := by
  simp [execPwmDeriveTin, deriveTin_of_is hi]

/-- `PWM.DERIVE_TIN` on an existing channel with the clock not found. -/
theorem execPwmDeriveTin_of_notFound {s : State} (hn : s.PwmClockNotFound) (ch : Channel) :
    execPwmDeriveTin ch.val s =
      .next (raiseError .clockResolutionError (s.afterNotFound s.cfg.pwmParentClkName)) := by
  simp [execPwmDeriveTin, deriveTin_of_notFound hn]

/-- `PWM.SET_CONFIG` past its checks with the clock there. -/
theorem execPwmSetConfig_of_is {s : State} {h : Handle} (hi : s.PwmClockIs h) (ch : Channel)
    (hr : ¬ outOfRange (s.operand 0) (s.operand 1)) (hd : ¬ s.operand 0 < s.operand 1) :
    execPwmSetConfig ch.val s = .next (
      match pwmTiming s.cfg (s.operand 0) (s.operand 1) (s.derivedRate ch (ns / s.operand 0)) with
      | .error r => raiseFault r (s.afterDerive h)
      | .ok (tcnt, tcmp) =>
        succeed (updateHandshake ch (memWrite (.tcmpb ch) tcmp
          (memWrite (.tcntb ch) tcnt (s.afterDerive h))))) := by
  simp only [execPwmSetConfig, checkChannel_val, if_neg hr, if_neg hd, deriveTin_of_is hi]
  rfl

/-- `PWM.SET_CONFIG` past its checks with the clock not found. -/
theorem execPwmSetConfig_of_notFound {s : State} (hn : s.PwmClockNotFound) (ch : Channel)
    (hr : ¬ outOfRange (s.operand 0) (s.operand 1)) (hd : ¬ s.operand 0 < s.operand 1) :
    execPwmSetConfig ch.val s =
      .next (raiseError .clockResolutionError (s.afterNotFound s.cfg.pwmParentClkName)) := by
  simp only [execPwmSetConfig, checkChannel_val, if_neg hr, if_neg hd, deriveTin_of_notFound hn]

end Sys2Proof.Machine
end

