-- ==== Sys2Proof/Laws/Events.lean ====
section
/-! SUPPORT. Facts about the parts a command's effect is made of: the events of a resolution, of a derivation
and of the configuration writes; the masks of `tcon`; the saturating minimum; the writes of a trace. -/

namespace Sys2Proof.Machine

/-- Every role of every channel stands in the list of R31's table. -/
theorem mem_tconFields (r : TconRole) (ch : Channel) : (r, ch) ∈ tconFields := by
  revert ch
  cases r <;> decide

/-- A mask of `tcon` has its one bit (10_state.md R31). -/
theorem tconMask_bit {c : Config} {r : TconRole} {ch : Channel} (hlt : c.tconBit r ch < 32) (k : Nat) :
    (tconMask c r ch).getLsbD k = decide (k = c.tconBit r ch) := by
  simp only [tconMask, BitVec.getLsbD_shiftLeft, BitVec.getLsbD_one]
  by_cases hk : k = c.tconBit r ch
  · simp [hk, hlt]
  · simp only [hk, decide_false]
    simp
    omega

/-- Arming again after a handshake gives the same word (40_pwm.md R96). -/
theorem armedWord_disarmedWord (c : Config) (ch : Channel) (t : Word) :
    armedWord c ch (disarmedWord c ch (armedWord c ch t)) = armedWord c ch t := by
  simp only [armedWord, disarmedWord]
  ext i hi
  simp
  cases t[i] <;> cases (tconMask c .update ch)[i] <;> cases (tconMask c .autoReload ch)[i] <;> rfl

/-- `min(a, b)` as a number (00_scope.md R10). -/
theorem minWord_toNat (a b : Word) : (minWord a b).toNat = min a.toNat b.toNat := by
  unfold minWord
  split <;> rw [BitVec.le_def] at * <;> omega

/-- The inverted and saturated compare value as a number (40_pwm.md R92, R93). -/
theorem sub_minWord_toNat (a b : Word) : (b - minWord a b).toNat = b.toNat - min a.toNat b.toNat := by
  rw [BitVec.toNat_sub_of_le (by rw [BitVec.le_def, minWord_toNat]; omega), minWord_toNat]

/-- The writes of two traces in a row. -/
theorem targetWrites_append (a b : List Event) : targetWrites (a ++ b) = targetWrites a ++ targetWrites b :=
  List.filterMap_append

/-- A PWM register is every target register but the two of the MMC engine. -/
theorem mem_pwmRegs (r : TargetReg) (h1 : r ≠ .clksel) (h2 : r ≠ .clkdly) : r ∈ pwmRegs := by
  cases r with
  | tcntb c => revert c; decide
  | tcmpb c => revert c; decide
  | clksel => exact absurd rfl h1
  | clkdly => exact absurd rfl h2
  | tcfg0 => decide
  | tcfg1 => decide
  | tcon => decide

/-- A resolution accesses no register. -/
theorem resolveEvents_onlyAt {cache : ClkCache} {name : String} {c : Collaborator} {cfg : Config}
    {regs : List TargetReg} : ∀ e ∈ resolveEvents cache name c, e.OnlyAt cfg regs := by
  intro e he
  cases cache <;> simp [resolveEvents] at he
  subst he
  trivial

/-- A resolution makes one call if the cache is empty, else none (40_pwm.md R86, 41_mmc.md R120). -/
theorem resolveEvents_resolves (cache : ClkCache) (name : String) (c : Collaborator) :
    (resolveEvents cache name c).countP Event.isResolve = 1 - cache.count := by
  cases cache <;> rfl

/-- A derivation accesses PWM registers only. -/
theorem deriveEvents_onlyAt (s : State) (h : Handle) : ∀ e ∈ s.deriveEvents h, e.OnlyAt s.cfg pwmRegs := by
  intro e he
  simp only [State.deriveEvents, List.mem_append] at he
  rcases he with (he | he) | he
  · exact resolveEvents_onlyAt e he
  · simp at he
    subst he
    trivial
  · unfold readbackEvents at he
    split at he <;> simp at he
    rcases he with rfl | rfl | rfl | rfl <;> exact ⟨_, mem_pwmRegs _ (by decide) (by decide), rfl⟩

/-- The configuration writes access PWM registers only. -/
theorem configEvents_onlyAt (s : State) (ch : Channel) (tcnt tcmp : Word) :
    ∀ e ∈ s.configEvents ch tcnt tcmp, e.OnlyAt s.cfg pwmRegs := by
  intro e he
  simp [State.configEvents] at he
  rcases he with rfl | rfl | rfl | rfl | rfl <;> exact ⟨_, mem_pwmRegs _ (by simp) (by simp), rfl⟩

/-- A derivation makes at most six events (70_reset_and_hazards.md R181). -/
theorem deriveEvents_length (s : State) (h : Handle) : (s.deriveEvents h).length ≤ 6 := by
  unfold State.deriveEvents resolveEvents readbackEvents
  cases s.pwmClk <;> cases s.cfg.tinPolicy <;> simp

end Sys2Proof.Machine
end

