-- ==== Sys2Proof/Laws/Flags.lean ====
section
/-! SUPPORT. What the operations on `STATUS` do to each of its fields and bits (10_state.md R24). -/

namespace Sys2Proof.Machine

theorem low_mask_bit (k : Nat) : (0x0000000F#32).getLsbD k = decide (k < 4) := by
  by_cases h : k < 32
  · exact (by decide : ∀ k : Fin 32, (0x0000000F#32).getLsbD k.val = decide (k.val < 4)) ⟨k, h⟩
  · rw [BitVec.getLsbD_of_ge _ _ (by omega)]; simp; omega

theorem freason_mask_bit (k : Nat) : (0x000000F0#32).getLsbD k = decide (4 ≤ k ∧ k < 8) := by
  by_cases h : k < 32
  · exact (by decide : ∀ k : Fin 32,
      (0x000000F0#32).getLsbD k.val = decide (4 ≤ k.val ∧ k.val < 8)) ⟨k, h⟩
  · rw [BitVec.getLsbD_of_ge _ _ (by omega)]; simp; omega

theorem fault_mask_bit (k : Nat) : (0x80000000#32).getLsbD k = decide (k = 31) := by
  by_cases h : k < 32
  · exact (by decide : ∀ k : Fin 32, (0x80000000#32).getLsbD k.val = decide (k.val = 31)) ⟨k, h⟩
  · rw [BitVec.getLsbD_of_ge _ _ (by omega)]; simp; omega

/-- Every bit of a status word with a new code. -/
theorem setCode_bit (w : Word) (c : BitVec 4) (k : Nat) :
    (setCode w c).getLsbD k = if k < 4 then c.getLsbD k else w.getLsbD k := by
  simp only [setCode, BitVec.getLsbD_or, BitVec.getLsbD_and, BitVec.getLsbD_not,
    BitVec.getLsbD_setWidth, low_mask_bit]
  by_cases h4 : k < 4
  · simp [h4, show k < 32 by omega]
  · by_cases h32 : k < 32
    · simp [h4, h32, BitVec.getLsbD_of_ge c k (by omega)]
    · simp [h4, h32, BitVec.getLsbD_of_ge w k (by omega)]

/-- Every bit of a status word after a fault. -/
theorem setFaultBits_bit (w : Word) (r : BitVec 4) (k : Nat) :
    (setFaultBits w r).getLsbD k =
      if k < 4 then (6#4).getLsbD k else if k < 8 then r.getLsbD (k - 4)
      else if k = 31 then true else w.getLsbD k := by
  simp only [setFaultBits, setCode_bit, BitVec.getLsbD_or, BitVec.getLsbD_and, BitVec.getLsbD_not,
    BitVec.getLsbD_shiftLeft, BitVec.getLsbD_setWidth, freason_mask_bit, fault_mask_bit]
  by_cases h4 : k < 4
  · simp [h4]
  · by_cases h8 : k < 8
    · simp [h4, h8, show 4 ≤ k by omega, show k < 32 by omega, show k - 4 < 32 by omega,
        show k ≠ 31 by omega]
    · by_cases h31 : k = 31
      · simp [h31]
      · by_cases h32 : k < 32
        · simp [h4, h8, h31, h32, BitVec.getLsbD_of_ge r (k - 4) (by omega)]
        · simp [h4, h8, h31, h32, BitVec.getLsbD_of_ge w k (by omega)]

theorem setCode_bit_high (w : Word) (c : BitVec 4) (k : Nat) (hk : 4 ≤ k) :
    (setCode w c).getLsbD k = w.getLsbD k := by
  rw [setCode_bit, if_neg (by omega)]

@[simp] theorem statusCode_setCode (w : Word) (c : BitVec 4) : statusCode (setCode w c) = c := by
  ext i hi
  simp [statusCode, BitVec.getElem_extractLsb', setCode_bit, hi]

@[simp] theorem statusFreason_setCode (w : Word) (c : BitVec 4) :
    statusFreason (setCode w c) = statusFreason w := by
  ext i hi
  simp [statusFreason, BitVec.getElem_extractLsb', setCode_bit]

@[simp] theorem statusFault_setCode (w : Word) (c : BitVec 4) :
    statusFault (setCode w c) = statusFault w := by
  exact setCode_bit_high w c 31 (by decide)

@[simp] theorem statusCode_setFaultBits (w : Word) (r : BitVec 4) :
    statusCode (setFaultBits w r) = 6 := by
  simp [setFaultBits]

@[simp] theorem statusFreason_setFaultBits (w : Word) (r : BitVec 4) :
    statusFreason (setFaultBits w r) = r := by
  ext i hi
  simp [statusFreason, BitVec.getElem_extractLsb', setFaultBits_bit, show 4 + i < 8 by omega,
    BitVec.getLsbD_eq_getElem hi]

@[simp] theorem statusFault_setFaultBits (w : Word) (r : BitVec 4) :
    statusFault (setFaultBits w r) = true := by
  rw [statusFault, setFaultBits_bit]; rfl

end Sys2Proof.Machine
end

