-- ==== Sys2Proof/Laws/Exec.lean ====
section
/-! SUPPORT. Everything each command can do, said once per command as the list of the next states it can
answer, in closed form. Proofs about all commands split on these and unfold no meaning. -/

namespace Sys2Proof.Machine

/-- `PWM.SET_ENABLE` on an existing channel. -/
theorem execPwmSetEnable_eq (c : Channel) (enable : Bool) (s : State) :
    execPwmSetEnable c.val enable s = .next { s with
      tcon := enableWord s.cfg c enable s.tcon
      status := setCode s.status okCode
      trace := s.trace ++ [.memRead (TargetReg.tcon.addr s.cfg) s.tcon,
        .memWrite (TargetReg.tcon.addr s.cfg) (enableWord s.cfg c enable s.tcon)] } := by
  simp [execPwmSetEnable, succeed, memRead, memWrite, State.setReg, State.log]

/-- `MMC.PROGRAM_DELAY`. -/
theorem execMmcProgramDelay_eq (s : State) :
    execMmcProgramDelay s = .next { s with
      clkdly := packDelay s.cfg (s.operand 0) (s.operand 1) (s.operand 2) (s.operand 3)
      status := setCode s.status okCode
      trace := s.trace ++ [.memWrite (TargetReg.clkdly.addr s.cfg)
        (packDelay s.cfg (s.operand 0) (s.operand 1) (s.operand 2) (s.operand 3))] } := by
  simp [execMmcProgramDelay, succeed, memWrite, State.setReg, State.log]

/-- `MMC.SELECT_CLOCK_MODE`. -/
theorem execMmcSelectClockMode_eq (boosted : Bool) (s : State) :
    execMmcSelectClockMode boosted s = .next { s with
      clksel := clkSelWord boosted
      result := clkSelWord boosted
      status := setCode s.status okCode
      trace := s.trace ++ [.memWrite (TargetReg.clksel.addr s.cfg) (clkSelWord boosted)] } := by
  simp [execMmcSelectClockMode, succeed, succeedWith, memWrite, State.setReg, State.log]

/-- `MMC.GET_BASE_CLOCK` with the clock there. -/
theorem execMmcGetBaseClock_of_is {s : State} {h : Handle} (hi : s.MmcClockIs h) :
    execMmcGetBaseClock s = .next { s with
      mmcClk := .resolved h
      result := (collabAfterResolve s.mmcClk s.collab).nextRate / 2#32
      status := setCode s.status okCode
      collab := (collabAfterResolve s.mmcClk s.collab).afterRate
      trace := s.trace ++ resolveEvents s.mmcClk (mmcClkName s.cfg) s.collab ++
        [.clkGetRate h (collabAfterResolve s.mmcClk s.collab).nextRate] } := by
  simp [execMmcGetBaseClock, resolveMmcClock_of_is hi, clkGetRate, State.log, succeedWith, succeed]

/-- `MMC.GET_BASE_CLOCK` with the clock not found. -/
theorem execMmcGetBaseClock_of_notFound {s : State} (hn : s.MmcClockNotFound) :
    execMmcGetBaseClock s =
      .next (raiseError .clockResolutionError (s.afterNotFound (mmcClkName s.cfg))) := by
  simp [execMmcGetBaseClock, resolveMmcClock_of_notFound hn]

/-- `MMC.SET_CLOCK` with the clock there. -/
theorem execMmcSetClock_of_is {s : State} {h : Handle} (hi : s.MmcClockIs h) :
    execMmcSetClock s = .next { s with
      mmcClk := .resolved h
      result := (collabAfterResolve s.mmcClk s.collab).nextSetRate
      status := setCode s.status okCode
      collab := (collabAfterResolve s.mmcClk s.collab).afterSetRate
      trace := s.trace ++ resolveEvents s.mmcClk (mmcClkName s.cfg) s.collab ++
        [.clkDisable h, .clkSetRate h (s.operand 0) (collabAfterResolve s.mmcClk s.collab).nextSetRate,
         .clkEnable h] } := by
  simp [execMmcSetClock, resolveMmcClock_of_is hi, clkSetRate, clkDisable, clkEnable, State.log,
    succeedWith, succeed]

/-- `MMC.SET_CLOCK` with the clock not found. -/
theorem execMmcSetClock_of_notFound {s : State} (hn : s.MmcClockNotFound) :
    execMmcSetClock s =
      .next (raiseError .clockResolutionError (s.afterNotFound (mmcClkName s.cfg))) := by
  simp [execMmcSetClock, resolveMmcClock_of_notFound hn]

/-- A PWM command on a channel that does not exist (40_pwm.md R85). -/
theorem execPwmDeriveTin_unsupported {ch : Nat} (hc : 5 ≤ ch) (s : State) :
    execPwmDeriveTin ch s = .next (raiseError .unsupportedChannelError s) := by
  simp [execPwmDeriveTin, checkChannel_none ch hc]

theorem execPwmSetConfig_unsupported {ch : Nat} (hc : 5 ≤ ch) (s : State) :
    execPwmSetConfig ch s = .next (raiseError .unsupportedChannelError s) := by
  simp [execPwmSetConfig, checkChannel_none ch hc]

theorem execPwmSetEnable_unsupported {ch : Nat} (hc : 5 ≤ ch) (enable : Bool) (s : State) :
    execPwmSetEnable ch enable s = .next (raiseError .unsupportedChannelError s) := by
  simp [execPwmSetEnable, checkChannel_none ch hc]

/-- Everything `PWM.DERIVE_TIN` can do. -/
theorem execPwmDeriveTin_forms {ch : Nat} {s t : State} (ht : execPwmDeriveTin ch s = .next t) :
    (5 ≤ ch ∧ t = raiseError .unsupportedChannelError s) ∨
    ∃ c : Channel, ch = c.val ∧
      ((s.PwmClockNotFound ∧
          t = raiseError .clockResolutionError (s.afterNotFound s.cfg.pwmParentClkName)) ∨
       ∃ h, s.PwmClockIs h ∧ t = succeedWith (s.derivedRate c (s.operand 0)) (s.afterDerive h)) := by
  rcases checkChannel_cases ch with ⟨hc, _⟩ | ⟨c, rfl, _⟩
  · rw [execPwmDeriveTin_unsupported hc] at ht
    exact .inl ⟨hc, by cases ht; rfl⟩
  · refine .inr ⟨c, rfl, ?_⟩
    rcases pwmClock_cases s with ⟨h, hi⟩ | hn
    · rw [execPwmDeriveTin_of_is hi] at ht
      exact .inr ⟨h, hi, by cases ht; rfl⟩
    · rw [execPwmDeriveTin_of_notFound hn] at ht
      exact .inl ⟨hn, by cases ht; rfl⟩

/-- Everything `PWM.SET_CONFIG` can do, in the order of 60_exceptions.md R151. -/
theorem execPwmSetConfig_forms {ch : Nat} {s t : State} (ht : execPwmSetConfig ch s = .next t) :
    (5 ≤ ch ∧ t = raiseError .unsupportedChannelError s) ∨
    ∃ c : Channel, ch = c.val ∧
      ((outOfRange (s.operand 0) (s.operand 1) ∧ t = raiseError .rangeError s) ∨
       (¬ outOfRange (s.operand 0) (s.operand 1) ∧ s.operand 0 < s.operand 1 ∧
          t = raiseError .invalidError s) ∨
       (¬ outOfRange (s.operand 0) (s.operand 1) ∧ ¬ s.operand 0 < s.operand 1 ∧
          ((s.PwmClockNotFound ∧
              t = raiseError .clockResolutionError (s.afterNotFound s.cfg.pwmParentClkName)) ∨
           ∃ h, s.PwmClockIs h ∧
            ((∃ r, pwmTiming s.cfg (s.operand 0) (s.operand 1)
                  (s.derivedRate c (ns / s.operand 0)) = .error r ∧
                t = raiseFault r (s.afterDerive h)) ∨
             ∃ tcnt tcmp, pwmTiming s.cfg (s.operand 0) (s.operand 1)
                  (s.derivedRate c (ns / s.operand 0)) = .ok (tcnt, tcmp) ∧
                t = { s.afterDerive h with
                  tcntb := s.tcntb.set c.val tcnt
                  tcmpb := s.tcmpb.set c.val tcmp
                  tcon := disarmedWord s.cfg c (armedWord s.cfg c s.tcon)
                  status := setCode s.status okCode
                  trace := s.trace ++ s.deriveEvents h ++ s.configEvents c tcnt tcmp })))) := by
  rcases checkChannel_cases ch with ⟨hc, _⟩ | ⟨c, rfl, hc⟩
  · rw [execPwmSetConfig_unsupported hc] at ht
    exact .inl ⟨hc, by cases ht; rfl⟩
  refine .inr ⟨c, rfl, ?_⟩
  by_cases hr : outOfRange (s.operand 0) (s.operand 1)
  · refine .inl ⟨hr, ?_⟩
    simp only [execPwmSetConfig, hc, if_pos hr, Host.Outcome.next.injEq] at ht
    exact ht.symm
  refine .inr ?_
  by_cases hd : s.operand 0 < s.operand 1
  · refine .inl ⟨hr, hd, ?_⟩
    simp only [execPwmSetConfig, hc, if_neg hr, if_pos hd, Host.Outcome.next.injEq] at ht
    exact ht.symm
  refine .inr ⟨hr, hd, ?_⟩
  rcases pwmClock_cases s with ⟨h, hi⟩ | hn
  · rw [execPwmSetConfig_of_is hi c hr hd, Host.Outcome.next.injEq] at ht
    refine .inr ⟨h, hi, ?_⟩
    cases hp : pwmTiming s.cfg (s.operand 0) (s.operand 1) (s.derivedRate c (ns / s.operand 0)) with
    | error r => rw [hp] at ht; exact .inl ⟨r, rfl, ht.symm⟩
    | ok v =>
      rw [hp] at ht
      exact .inr ⟨v.1, v.2, rfl, ht.symm.trans (configWrites_eq c v.1 v.2 (s.afterDerive h))⟩
  · rw [execPwmSetConfig_of_notFound hn c hr hd, Host.Outcome.next.injEq] at ht
    exact .inl ⟨hn, ht.symm⟩

/-- Everything `PWM.SET_ENABLE` can do. -/
theorem execPwmSetEnable_forms {ch : Nat} {enable : Bool} {s t : State}
    (ht : execPwmSetEnable ch enable s = .next t) :
    (5 ≤ ch ∧ t = raiseError .unsupportedChannelError s) ∨
    ∃ c : Channel, ch = c.val ∧ t = { s with
      tcon := enableWord s.cfg c enable s.tcon
      status := setCode s.status okCode
      trace := s.trace ++ [.memRead (TargetReg.tcon.addr s.cfg) s.tcon,
        .memWrite (TargetReg.tcon.addr s.cfg) (enableWord s.cfg c enable s.tcon)] } := by
  rcases checkChannel_cases ch with ⟨hc, _⟩ | ⟨c, rfl, _⟩
  · rw [execPwmSetEnable_unsupported hc] at ht
    exact .inl ⟨hc, by cases ht; rfl⟩
  · rw [execPwmSetEnable_eq] at ht
    exact .inr ⟨c, rfl, by cases ht; rfl⟩

/-- Everything `MMC.GET_BASE_CLOCK` can do. -/
theorem execMmcGetBaseClock_forms {s t : State} (ht : execMmcGetBaseClock s = .next t) :
    (s.MmcClockNotFound ∧ t = raiseError .clockResolutionError (s.afterNotFound (mmcClkName s.cfg))) ∨
    ∃ h, s.MmcClockIs h ∧ t = { s with
      mmcClk := .resolved h
      result := (collabAfterResolve s.mmcClk s.collab).nextRate / 2#32
      status := setCode s.status okCode
      collab := (collabAfterResolve s.mmcClk s.collab).afterRate
      trace := s.trace ++ resolveEvents s.mmcClk (mmcClkName s.cfg) s.collab ++
        [.clkGetRate h (collabAfterResolve s.mmcClk s.collab).nextRate] } := by
  rcases mmcClock_cases s with ⟨h, hi⟩ | hn
  · rw [execMmcGetBaseClock_of_is hi] at ht
    exact .inr ⟨h, hi, by cases ht; rfl⟩
  · rw [execMmcGetBaseClock_of_notFound hn] at ht
    exact .inl ⟨hn, by cases ht; rfl⟩

/-- Everything `MMC.SET_CLOCK` can do. -/
theorem execMmcSetClock_forms {s t : State} (ht : execMmcSetClock s = .next t) :
    (s.MmcClockNotFound ∧ t = raiseError .clockResolutionError (s.afterNotFound (mmcClkName s.cfg))) ∨
    ∃ h, s.MmcClockIs h ∧ t = { s with
      mmcClk := .resolved h
      result := (collabAfterResolve s.mmcClk s.collab).nextSetRate
      status := setCode s.status okCode
      collab := (collabAfterResolve s.mmcClk s.collab).afterSetRate
      trace := s.trace ++ resolveEvents s.mmcClk (mmcClkName s.cfg) s.collab ++
        [.clkDisable h, .clkSetRate h (s.operand 0) (collabAfterResolve s.mmcClk s.collab).nextSetRate,
         .clkEnable h] } := by
  rcases mmcClock_cases s with ⟨h, hi⟩ | hn
  · rw [execMmcSetClock_of_is hi] at ht
    exact .inr ⟨h, hi, by cases ht; rfl⟩
  · rw [execMmcSetClock_of_notFound hn] at ht
    exact .inl ⟨hn, by cases ht; rfl⟩

/-- Everything `MMC.PROGRAM_DELAY` can do. -/
theorem execMmcProgramDelay_forms {s t : State} (ht : execMmcProgramDelay s = .next t) : t = { s with
    clkdly := packDelay s.cfg (s.operand 0) (s.operand 1) (s.operand 2) (s.operand 3)
    status := setCode s.status okCode
    trace := s.trace ++ [.memWrite (TargetReg.clkdly.addr s.cfg)
      (packDelay s.cfg (s.operand 0) (s.operand 1) (s.operand 2) (s.operand 3))] } := by
  rw [execMmcProgramDelay_eq] at ht
  cases ht
  rfl

/-- Everything `MMC.SELECT_CLOCK_MODE` can do. -/
theorem execMmcSelectClockMode_forms {boosted : Bool} {s t : State}
    (ht : execMmcSelectClockMode boosted s = .next t) : t = { s with
    clksel := clkSelWord boosted
    result := clkSelWord boosted
    status := setCode s.status okCode
    trace := s.trace ++ [.memWrite (TargetReg.clksel.addr s.cfg) (clkSelWord boosted)] } := by
  rw [execMmcSelectClockMode_eq] at ht
  cases ht
  rfl

/-- A cached handle is the one that is used. -/
theorem cached_handle_kept {cache : ClkCache} {a : Option Handle} {k : Handle}
    (hk : cache = .resolved k ∨ (cache = .unresolved ∧ a = some k)) :
    ∀ h, cache = .resolved h → ClkCache.resolved k = .resolved h := by
  rintro h rfl
  rcases hk with hk | ⟨hk, _⟩
  · exact hk.symm
  · cases hk

/-- What no command changes: the configuration, the `ARG` registers, the host's side; and a cached handle
stays. -/
theorem exec_keeps {i : Instr} {s t : State} (h : exec i s = .next t) :
    t.cfg = s.cfg ∧ t.arg = s.arg ∧ t.pending = s.pending ∧ t.lastRead = s.lastRead ∧
    (∀ h, s.pwmClk = .resolved h → t.pwmClk = .resolved h) ∧
    (∀ h, s.mmcClk = .resolved h → t.mmcClk = .resolved h) := by
  cases i with
  | pwmDeriveTin ch =>
    rcases execPwmDeriveTin_forms h with ⟨_, rfl⟩ | ⟨c, _, ⟨_, rfl⟩ | ⟨k, hk, rfl⟩⟩
    · exact ⟨rfl, rfl, rfl, rfl, fun _ h => h, fun _ h => h⟩
    · exact ⟨rfl, rfl, rfl, rfl, fun _ h => h, fun _ h => h⟩
    · exact ⟨rfl, rfl, rfl, rfl, cached_handle_kept hk, fun _ h => h⟩
  | pwmSetConfig ch =>
    rcases execPwmSetConfig_forms h with ⟨_, rfl⟩ | ⟨c, _, ⟨_, rfl⟩ | ⟨_, _, rfl⟩ |
      ⟨_, _, ⟨_, rfl⟩ | ⟨k, hk, ⟨_, _, rfl⟩ | ⟨_, _, _, rfl⟩⟩⟩⟩
    · exact ⟨rfl, rfl, rfl, rfl, fun _ h => h, fun _ h => h⟩
    · exact ⟨rfl, rfl, rfl, rfl, fun _ h => h, fun _ h => h⟩
    · exact ⟨rfl, rfl, rfl, rfl, fun _ h => h, fun _ h => h⟩
    · exact ⟨rfl, rfl, rfl, rfl, fun _ h => h, fun _ h => h⟩
    · exact ⟨rfl, rfl, rfl, rfl, cached_handle_kept hk, fun _ h => h⟩
    · exact ⟨rfl, rfl, rfl, rfl, cached_handle_kept hk, fun _ h => h⟩
  | pwmSetEnable ch e =>
    rcases execPwmSetEnable_forms h with ⟨_, rfl⟩ | ⟨c, _, rfl⟩ <;>
      exact ⟨rfl, rfl, rfl, rfl, fun _ h => h, fun _ h => h⟩
  | mmcGetBaseClock =>
    rcases execMmcGetBaseClock_forms h with ⟨_, rfl⟩ | ⟨k, hk, rfl⟩
    · exact ⟨rfl, rfl, rfl, rfl, fun _ h => h, fun _ h => h⟩
    · exact ⟨rfl, rfl, rfl, rfl, fun _ h => h, cached_handle_kept hk⟩
  | mmcSetClock =>
    rcases execMmcSetClock_forms h with ⟨_, rfl⟩ | ⟨k, hk, rfl⟩
    · exact ⟨rfl, rfl, rfl, rfl, fun _ h => h, fun _ h => h⟩
    · exact ⟨rfl, rfl, rfl, rfl, fun _ h => h, cached_handle_kept hk⟩
  | mmcProgramDelay =>
    obtain rfl := execMmcProgramDelay_forms h
    exact ⟨rfl, rfl, rfl, rfl, fun _ h => h, fun _ h => h⟩
  | mmcSelectClockMode b =>
    obtain rfl := execMmcSelectClockMode_forms h
    exact ⟨rfl, rfl, rfl, rfl, fun _ h => h, fun _ h => h⟩

/-- A `PWM.SET_CONFIG` that ends with code 0 has done all its writes. -/
theorem setConfig_success {s t : State} {ch : Channel} (h : exec (.pwmSetConfig ch.val) s = .next t)
    (h0 : statusCode t.status = 0) :
    ∃ k tcnt tcmp, s.PwmClockIs k ∧
      pwmTiming s.cfg (s.operand 0) (s.operand 1) (s.derivedRate ch (ns / s.operand 0)) = .ok (tcnt, tcmp) ∧
      t = { s.afterDerive k with
        tcntb := s.tcntb.set ch.val tcnt
        tcmpb := s.tcmpb.set ch.val tcmp
        tcon := disarmedWord s.cfg ch (armedWord s.cfg ch s.tcon)
        status := setCode s.status okCode
        trace := s.trace ++ s.deriveEvents k ++ s.configEvents ch tcnt tcmp } := by
  rcases execPwmSetConfig_forms h with ⟨_, rfl⟩ | ⟨c, hc, ⟨_, rfl⟩ | ⟨_, _, rfl⟩ |
    ⟨_, _, ⟨_, rfl⟩ | ⟨k, hk, ⟨r, _, rfl⟩ | ⟨tcnt, tcmp, hp, ht⟩⟩⟩⟩
  · simp [ErrorKind.code] at h0
  · simp [ErrorKind.code] at h0
  · simp [ErrorKind.code] at h0
  · simp [ErrorKind.code] at h0
  · simp at h0
  · obtain rfl : ch = c := Fin.ext hc
    exact ⟨k, tcnt, tcmp, hk, hp, ht⟩

/-- Everything a step can do when the next event is no reset. -/
theorem step_noReset_cases {s t : State} (hn : s.NoResetNext) (h : step s = .next t) :
    (∃ l p, t = { s with lastRead := l, pending := p }) ∨
    (∃ i : Fin 4, ∃ v p a, t = { s with arg := s.arg.set i.val v, pending := p } ∧
      s.pending = .write a 32 v :: p ∧ portAccess s.cfg a 32 = .ok (.arg i)) ∨
    (∃ i p, s.control = .idle ∧ exec i { s with pending := p } = .next t) ∨
    (∃ p, s.control = .idle ∧ t = rejectIllegal { s with pending := p }) := by
  rcases step_cases s with ⟨_, h'⟩ | ⟨e, rest, hp, h'⟩
  · rw [h'] at h
    cases h
    exact .inl ⟨_, _, rfl⟩
  · rw [h'] at h
    rcases perform_next h with ⟨a, r, rfl, _, rfl⟩ | ⟨a, r, v, rfl, ha, hw⟩ | ⟨c, rfl, _, rfl⟩
    · exact .inl ⟨_, _, rfl⟩
    · cases r with
      | cmd =>
        have hw : launch v { s with pending := rest } = .next t := hw
        rcases launch_cases v { s with pending := rest } with ⟨_, h2⟩ | ⟨hc, i, _, h2⟩ | ⟨hc, _, _, h2⟩
        · rw [h2] at hw
          cases hw
          exact .inl ⟨s.lastRead, _, rfl⟩
        · rw [h2] at hw
          exact .inr (.inr (.inl ⟨i, rest, hc, hw⟩))
        · rw [h2] at hw
          cases hw
          exact .inr (.inr (.inr ⟨rest, hc, rfl⟩))
      | arg i =>
        cases hw
        exact .inr (.inl ⟨i, v, rest, a, rfl, hp, ha⟩)
      | result =>
        cases hw
        exact .inl ⟨s.lastRead, _, rfl⟩
      | status =>
        cases hw
        exact .inl ⟨s.lastRead, _, rfl⟩
    · cases hn _ (by rw [hp]; rfl)

end Sys2Proof.Machine
end

