-- ==== Sys2Proof/Laws/PerInstr.lean ====
section
/-! SUPPORT. Statements about every command as syntax, one lemma per constructor. The family
`SelectsItsRow`: the word of a well-formed command is selected by the row of 30_encoding.md R68 that stands
for it, so the encoder and the match and mask table agree. -/

namespace Sys2Proof.Laws.SelectsItsRow

/-- The word of a well-formed command is selected by its row of R68, and the row stands in the table. -/
def Statement (i : Instr) : Prop := i.WellFormed → i.row ∈ opcodeTable ∧ i.row.Selects (encode i)

/-- A statement about every channel number below 16 holds if it holds of each of them. -/
theorem below16 {p : Nat → Prop} (h : ∀ ch : Fin 16, p ch.val) (ch : Nat) (hc : ch < 16) : p ch :=
  h ⟨ch, hc⟩

theorem pwmDeriveTin (ch : Nat) : Statement (.pwmDeriveTin ch) := fun hc =>
  below16 (p := fun ch => (Instr.pwmDeriveTin ch).row ∈ opcodeTable ∧
    (Instr.pwmDeriveTin ch).row.Selects (encode (.pwmDeriveTin ch))) (by decide) ch (of_decide_eq_true hc)

theorem pwmSetConfig (ch : Nat) : Statement (.pwmSetConfig ch) := fun hc =>
  below16 (p := fun ch => (Instr.pwmSetConfig ch).row ∈ opcodeTable ∧
    (Instr.pwmSetConfig ch).row.Selects (encode (.pwmSetConfig ch))) (by decide) ch (of_decide_eq_true hc)

theorem pwmSetEnable (ch : Nat) (enable : Bool) : Statement (.pwmSetEnable ch enable) := fun hc =>
  below16 (p := fun ch => (Instr.pwmSetEnable ch enable).row ∈ opcodeTable ∧
    (Instr.pwmSetEnable ch enable).row.Selects (encode (.pwmSetEnable ch enable)))
    (by cases enable <;> decide) ch (of_decide_eq_true hc)

theorem mmcGetBaseClock : Statement .mmcGetBaseClock := fun _ => by decide

theorem mmcSetClock : Statement .mmcSetClock := fun _ => by decide

theorem mmcProgramDelay : Statement .mmcProgramDelay := fun _ => by decide

theorem mmcSelectClockMode (boosted : Bool) : Statement (.mmcSelectClockMode boosted) := fun _ => by
  cases boosted <;> decide

end Sys2Proof.Laws.SelectsItsRow
end

