-- ==== Sys2Proof/Tests/Slice0.lean ====
section
/-! SUPPORT. The model's own tests: ill-formed terms, words decoded bit by bit, vectors of
95_test_vectors.md (their numbers are in the names or the docstrings), and one witness per statement with
hypotheses. -/

namespace Sys2Proof.Tests

open Sys2Proof Sys2Proof.Machine

/-! ### Helpers -/

/-- An idle block under `c` with these operands, whose collaborator answers the handle 7, the rate `rate` and,
to a rate request, `answer`. -/
def ready (c : Config) (arg : Vector Word 4) (rate answer : Word) : State :=
  { State.resetWith c with
    arg := arg
    collab := { resolves := [some 7], rates := [rate], setRates := [answer], draws := 0 } }

/-- The same with a collaborator that answers `NotFound`. -/
def notFound (c : Config) (arg : Vector Word 4) : State :=
  { State.resetWith c with
    arg := arg
    collab := { resolves := [none], rates := [], setRates := [], draws := 0 } }

/-- The state after a command. -/
def after (i : Instr) (s : State) : State :=
  match exec i s with
  | .next t => t
  | _ => s

/-- The state after a step. -/
def afterStep (s : State) : State :=
  match step s with
  | .next t => t
  | _ => s

/-- `PWM.SET_CONFIG` on a channel with a period, a duty and a parent rate. -/
def setConfig (c : Config) (ch : Nat) (period duty rate : Word) : State :=
  after (.pwmSetConfig ch) (ready c #v[period, duty, 0, 0] rate 0)

/-- The spec's default configuration. -/
abbrev base : Config := Config.initial

/-- The fixed-readback policy. -/
abbrev fixed : Config := { base with tinPolicy := .fixedReadback }

/-- The configuration of V-TIN-F and S18. -/
abbrev fixedValue : Config := { fixed with tcfgReadback := .value 0x00000F07#32 0x00043021#32 }

/-- The source-literal delay layout. -/
abbrev literal : Config := { base with clkdlyLayout := .sourceLiteral }

/-- `COUNTER_UNDERFLOW = Fault`. -/
abbrev underflowFaults : Config := { base with counterUnderflow := .fault }

/-! ### Ill-formed terms, each refused by its check -/

theorem test_channel_16_is_ill_formed : ¬ (Instr.pwmDeriveTin 16).WellFormed ∧
    ¬ (Instr.pwmSetConfig 16).WellFormed ∧ ¬ (Instr.pwmSetEnable 16 true).WellFormed := by decide

theorem test_channel_15_is_well_formed : (Instr.pwmDeriveTin 15).WellFormed ∧
    (Instr.pwmSetConfig 15).WellFormed ∧ (Instr.pwmSetEnable 15 false).WellFormed := by decide

/-- 30_encoding.md R72: the assembler rejects a channel, a flag, an operand or an ARG number out of range. -/
theorem test_assembler_rejects_out_of_range :
    assemble base (.deriveTin 16 0) = none ∧ assemble base (.setConfig 0 0x100000000 0) = none ∧
    assemble base (.setEnable 0 2) = none ∧ assemble base (.selectClockMode 2) = none ∧
    assemble base (.setClock 0x100000000) = none ∧ assemble base (.programDelay 0 0 0 0x100000000) = none ∧
    assemble base (.enable 16) = none ∧ assemble base (.disable 16) = none ∧
    assemble base (.writeArg 4 0) = none ∧ assemble base (.writeCmd 0x100000000) = none := by decide

/-- Configurations that break one condition each (10_state.md R31, 00_scope.md R7, 20_memory.md R56). -/
def brokenConfigs : List Config :=
  [{ base with tcon4AutoReloadBit := 20 }, { base with tcon4AutoReloadBit := 32 },
   { base with clkdlySsLsb := 17 }, { base with clkdlySsLsb := 31 }, { base with portBase := 2#32 },
   { base with pwmBase := 1#32 }, { base with mmcBase := 3#32 }, { base with prescalerWidth := 0 },
   { base with prescalerLsbHigh := 25 }, { base with muxLsb := #v[0, 4, 8, 12, 29] }]

theorem test_config_checks : base.Ok ∧ ∀ c ∈ brokenConfigs, ¬ c.Ok := by decide

/-! ### Decoding: words written out from the field table of 30_encoding.md R65 and the rows of R67 -/

/-- OP 0001 | CH 0000 or 0100. -/
theorem test_decode_derive_tin :
    decode 0b00000000000000000000000000000001#32 = .ok (.pwmDeriveTin 0) ∧
    decode 0b00000000000000000000000001000001#32 = .ok (.pwmDeriveTin 4) := by decide

/-- OP 0010 | CH 0010, 0101 and 1111. -/
theorem test_decode_set_config :
    decode 0b00000000000000000000000000100010#32 = .ok (.pwmSetConfig 2) ∧
    decode 0b00000000000000000000000001010010#32 = .ok (.pwmSetConfig 5) ∧
    decode 0b00000000000000000000000011110010#32 = .ok (.pwmSetConfig 15) := by decide

/-- OP 0011 | CH 0100 | F 1, and CH 0000 | F 0. -/
theorem test_decode_set_enable :
    decode 0b00000000000000000000000101000011#32 = .ok (.pwmSetEnable 4 true) ∧
    decode 0b00000000000000000000000000000011#32 = .ok (.pwmSetEnable 0 false) := by decide

theorem test_decode_get_base_clock :
    decode 0b00000000000000000000000000001000#32 = .ok .mmcGetBaseClock := by decide

theorem test_decode_set_clock :
    decode 0b00000000000000000000000000001001#32 = .ok .mmcSetClock := by decide

theorem test_decode_program_delay :
    decode 0b00000000000000000000000000001010#32 = .ok .mmcProgramDelay := by decide

theorem test_decode_select_clock_mode :
    decode 0b00000000000000000000000100001011#32 = .ok (.mmcSelectClockMode true) ∧
    decode 0b00000000000000000000000000001011#32 = .ok (.mmcSelectClockMode false) := by decide

/-- V-DEC: the nine unassigned codes (30_encoding.md R69). -/
theorem test_decode_unassigned :
    decode 0x0#32 = .error .unassignedOp ∧ decode 0x4#32 = .error .unassignedOp ∧
    decode 0x5#32 = .error .unassignedOp ∧ decode 0x6#32 = .error .unassignedOp ∧
    decode 0x7#32 = .error .unassignedOp ∧ decode 0xC#32 = .error .unassignedOp ∧
    decode 0xD#32 = .error .unassignedOp ∧ decode 0xE#32 = .error .unassignedOp ∧
    decode 0xF#32 = .error .unassignedOp := by decide

/-- V-DEC: the other kinds of illegal word (30_encoding.md R69). -/
theorem test_decode_illegal :
    decode 0x101#32 = .error .flagMustBeZero ∧ decode 0x102#32 = .error .flagMustBeZero ∧
    decode 0x108#32 = .error .flagMustBeZero ∧ decode 0x18#32 = .error .channelMustBeZero ∧
    decode 0x11B#32 = .error .channelMustBeZero ∧ decode 0x202#32 = .error .reservedBitSet ∧
    decode 0x80000001#32 = .error .reservedBitSet ∧ decode 0xFFFFFFFF#32 = .error .reservedBitSet := by decide

/-- The host's question: a word given as a number of 32 bits. -/
theorem test_decodeTableWord : decodeTableWord 32 0x143 = some (.pwmSetEnable 4 true) ∧
    decodeTableWord 32 0x0 = none ∧ decodeTableWord 16 0x2 = some (.pwmSetConfig 0) ∧
    decodeTableWord 64 0x100000002 = none := by decide

/-! ### The port, a step, reset -/

/-- V-RST and V-EN: `PWM.SET_ENABLE 0, 1` as the first command after reset writes `TCON_RESET | 1`. -/
theorem test_first_command_after_reset :
    (afterStep (State.reset.withFetchWord 32 0x103)).tcon = 1#32 ∧
    (afterStep (State.reset.withFetchWord 32 0x103)).trace =
      [.memRead 0x1008#32 0#32, .memWrite 0x1008#32 1#32] ∧
    (afterStep (State.reset.withFetchWord 32 0x103)).pending = [] := by decide

/-- V-EXC: a faulted block ignores a `CMD` write, legal or not, and still takes an `ARG` write. -/
theorem test_faulted_block :
    let s := { State.reset with control := .faulted, status := 0x80000026#32 }
    afterStep (s.withFetchWord 32 0xB) = s ∧ afterStep (s.withFetchWord 32 0x4) = s ∧
    (afterStep { s with pending := [.write 0x4#32 32 5#32] }).arg[0] = 5#32 := by decide

/-- V-EXC: an error is not sticky. -/
theorem test_error_is_not_sticky :
    let t := afterStep ({ State.reset with status := 3#32 }.withFetchWord 32 0xB)
    t.status = 0#32 ∧ t.clksel = 0x03000000#32 := by decide

/-- P4: an illegal word gives 5; 20_memory.md R55 with the port read of 10_state.md R21. -/
theorem test_status_read_after_illegal_word :
    let t := afterStep (State.reset.withFetchWord 32 0x4)
    (afterStep { t with pending := [.read 0x18#32 32] }).lastRead = some 5#32 := by decide

/-! ### PWM engine -/

/-- V-DERIVE, rows 1, 2, 4; V-TIN-F, channels 3 and 4. -/
theorem test_derive_tin :
    (after (.pwmDeriveTin 0) (ready base #v[1000, 0, 0, 0] 200000000 0)).result = 50000000#32 ∧
    (after (.pwmDeriveTin 3) (ready base #v[0, 0, 0, 0] 200000000 0)).result = 12500000#32 ∧
    (after (.pwmDeriveTin 4) (ready fixed #v[9, 0, 0, 0] 24000000 0)).result = 24000000#32 ∧
    (after (.pwmDeriveTin 3) (ready fixedValue #v[9, 0, 0, 0] 200000000 0)).result = 1562500#32 ∧
    (after (.pwmDeriveTin 4) (ready fixedValue #v[9, 0, 0, 0] 200000000 0)).result = 781250#32 := by decide

/-- V-DERIVE, rows 3, 5, 6: a rate of 0 is returned; channel 5; `NotFound`. -/
theorem test_derive_tin_corners :
    (after (.pwmDeriveTin 0) (ready base #v[1, 0, 0, 0] 1 0)).status = 0#32 ∧
    (after (.pwmDeriveTin 5) (ready base #v[1, 0, 0, 0] 1 0)).status = 4#32 ∧
    (after (.pwmDeriveTin 5) (ready base #v[1, 0, 0, 0] 1 0)).trace = [] ∧
    (after (.pwmDeriveTin 0) (notFound base #v[1, 0, 0, 0])).status = 3#32 := by decide

/-- V-TIN-S: the boundary rows, under both ways of returning. -/
theorem test_tin_search :
    tinSearch base 1000 131072000 = 32768000#32 ∧ tinSearch base 100 200000000 = 12500000#32 ∧
    tinSearch base 333333333 200000000 = 100000000#32 ∧
    tinSearch { base with searchReturn := .shiftByDiv } 1000 131072000 = 8192000#32 := by decide

/-- S1, S4, S9, S18, S19 of V-CFG: reload and compare. -/
theorem test_set_config_values :
    (setConfig base 0 1000000 500000 200000000).tcntb[0] = 49999#32 ∧
    (setConfig base 0 1000000 500000 200000000).tcmpb[0] = 24999#32 ∧
    (setConfig base 0 1000000 1000000 200000000).tcmpb[0] = 0#32 ∧
    (setConfig base 1 7 3 100000000).tcntb[1] = 0xFFFFFFFF#32 ∧
    (setConfig base 1 7 3 100000000).tcon = 0x800#32 ∧
    (setConfig fixedValue 0 1000000 500000 200000000).tcmpb[0] = 6249#32 ∧
    (setConfig fixed 0 1000000 500000 24000000).tcntb[0] = 24389#32 := by decide

/-- S7 of V-CFG: the trace on channel 4; S11, S16, S17: the three faults; E2: the order of the checks. -/
theorem test_set_config_trace_and_stops :
    targetWrites (setConfig base 4 1000000 500000 200000000).trace =
      [(0x103C#32, 49999#32), (0x1040#32, 24999#32), (0x1008#32, 0x600000#32), (0x1008#32, 0x400000#32)] ∧
    (setConfig underflowFaults 0 3 1 200000000).status = 0x80000036#32 ∧
    (setConfig fixed 0 1000000 0 2000000000).status = 0x80000026#32 ∧
    (setConfig base 0 1000000 0 0).status = 0x80000016#32 ∧
    (setConfig base 0 1000000000 1000000001 1).status = 1#32 ∧ (setConfig base 0 0 1 1).status = 1#32 ∧
    (setConfig base 0 100 101 1).status = 2#32 ∧ (setConfig base 5 0 0 1).status = 4#32 := by decide

/-- V-EN, rows 1, 2, 3, 5, 6. -/
theorem test_set_enable :
    (after (.pwmSetEnable 0 true) { State.reset with tcon := 0x8#32 }).tcon = 0x9#32 ∧
    (after (.pwmSetEnable 4 true) State.reset).tcon = 0x00100000#32 ∧
    (after (.pwmSetEnable 0 false) { State.reset with tcon := 0xB#32 }).tcon = 0xA#32 ∧
    (after (.pwmSetEnable 2 false) { State.reset with tcon := 0xFFFFFFFF#32 }).tcon = 0xFFFFEFFF#32 ∧
    (after (.pwmSetEnable 7 true) State.reset).status = 4#32 := by decide

/-! ### MMC engine -/

/-- V-MMC, `MMC.GET_BASE_CLOCK`; P3: the failed resolution. -/
theorem test_get_base_clock :
    (after .mmcGetBaseClock (ready base #v[0, 0, 0, 0] 0xFFFFFFFF 0)).result = 0x7FFFFFFF#32 ∧
    (after .mmcGetBaseClock (ready base #v[0, 0, 0, 0] 100000000 0)).mmcClk = .resolved 7 ∧
    (after .mmcGetBaseClock (notFound base #v[0, 0, 0, 0])).status = 3#32 ∧
    (after .mmcGetBaseClock (notFound base #v[0, 0, 0, 0])).mmcClk = .unresolved := by decide

/-- V-MMC, `MMC.SET_CLOCK`, row 1: the answer and the order of the calls (the name as 41_mmc.md R120). -/
theorem test_set_clock :
    (after .mmcSetClock (ready base #v[50000000, 0, 0, 0] 0 49500000)).result = 49500000#32 ∧
    (after .mmcSetClock (ready base #v[50000000, 0, 0, 0] 0 49500000)).trace =
      [.clkResolve "mmc.0" (some 7), .clkDisable 7, .clkSetRate 7 50000000#32 49500000#32,
       .clkEnable 7] := by decide

/-- V-MMC, `MMC.PROGRAM_DELAY`, rows 4 and 6, in both layouts. -/
theorem test_program_delay :
    (after .mmcProgramDelay (ready base #v[0x1AB, 7, 0x1CD, 6] 0 0)).clkdly = 0x0203CDAB#32 ∧
    (after .mmcProgramDelay (ready literal #v[0x1AB, 7, 0x1CD, 6] 0 0)).clkdly = 0x000207AB#32 ∧
    packDelay base 0xFFFFFFFF 0xFFFFFFFF 0xFFFFFFFF 0xFFFFFFFF = 0x0303FFFF#32 ∧
    packDelay literal 0xFFFFFFFF 0xFFFFFFFF 0xFFFFFFFF 0xFFFFFFFF = 0x0003FFFF#32 := by decide

/-- E7. -/
theorem test_select_clock_mode :
    (after (.mmcSelectClockMode true) State.reset).clksel = 0x01000000#32 ∧
    (after (.mmcSelectClockMode false) State.reset).result = 0x03000000#32 := by decide

/-! ### Assembler -/

/-- P1, P2, P3 and P4: lines as the spec writes them (30_encoding.md R72 to R74). -/
theorem test_parse_lines :
    parseLine "PWM.SET_CONFIG 0, 1_000_000, 500_000 ; comment".toList = some (.setConfig 0 1000000 500000) ∧
    parseLine "WR ARG0, 0x000F4240".toList = some (.writeArg 0 1000000) ∧
    parseLine "RD STATUS".toList = some .readStatus ∧ parseLine "MMC.MODE_NORMAL".toList = some .modeNormal ∧
    parseLine "PWM.SET_CONFIG 0, 1".toList = none := by decide

/-- The model's choice of where a `_` may stand in a number (log entry 16). -/
theorem test_underscores_in_numbers :
    parseNumber "1__000".toList = some 1000 ∧ parseNumber "12_".toList = some 12 ∧
    parseNumber "_1".toList = none ∧ parseNumber "0x_1".toList = none := by decide

/-- P1: the accesses a line stands for. -/
theorem test_assemble_set_config : assemble base (.setConfig 0 1000000 500000) =
    some [.write 0x4 32 0x000F4240, .write 0x8 32 0x0007A120, .write 0x0 32 0x00000002] := by decide

/-! ### Witnesses: for each statement with hypotheses, states and operands that meet them together -/

/-- A `CMD` write as the next event. -/
def commanded (s : State) (w : Word) : State := { s with pending := [.write s.cfg.portBase 32 w] }

/-- The state and its next event for `MMC.SELECT_CLOCK_MODE`, idle and faulted. -/
abbrev faultedBlock : State := { State.reset with control := .faulted, status := 0x80000026#32 }

theorem witness_DecodeEncodeRoundTrip : (Instr.pwmSetEnable 15 true).WellFormed ∧
    (Instr.pwmDeriveTin 0).WellFormed ∧ (Instr.mmcSelectClockMode false).WellFormed := by decide

theorem witness_EncodeDecodeRoundTrip : decode 0x1F3#32 = .ok (.pwmSetEnable 15 true) := by decide

theorem witness_DecodeAgreesWithMatchMask : (⟨0x3#32, 0xFFFFFE0F#32⟩ : OpcodeRow) ∈ opcodeTable ∧
    (⟨0x3#32, 0xFFFFFE0F#32⟩ : OpcodeRow).Selects 0x1F3#32 := by decide

theorem witness_IllegalWordOnlySetsCode : base.Ok ∧ (commanded State.reset 0x202).control = .idle ∧
    (commanded State.reset 0x202).pending = [.write base.portBase 32 0x202] ∧
    ∀ row ∈ opcodeTable, ¬ row.Selects 0x202#32 := by decide

theorem witness_StepRunsTheWrittenCommand : base.Ok ∧
    (commanded State.reset 0xF2).control = .idle ∧ decode 0xF2#32 = .ok (.pwmSetConfig 15) ∧
    (commanded State.reset 0xF2).pending = .write base.portBase 32 0xF2 :: [] ∧
    decode 0x0#32 = .error .unassignedOp ∧ (commanded faultedBlock 0xB).control = .faulted ∧
    { State.reset with pending := [.read base.portBase 32] }.pending = .read base.portBase 32 :: [] := by decide

theorem witness_FaultedBlockOnlyServesReadsAndArgWrites :
    (commanded faultedBlock 0xB).control = .faulted ∧ (commanded faultedBlock 0xB).NoResetNext ∧
    step (commanded faultedBlock 0xB) = .next faultedBlock :=
  ⟨rfl, by rintro e ⟨⟩; rfl, rfl⟩

theorem witness_PortReadReturnsTheRegister (offset : Word)
    (_ : offset ∈ [0x00#32, 0x04#32, 0x08#32, 0x0C#32, 0x10#32, 0x14#32, 0x18#32]) :
    base.Ok ∧ { State.reset with pending := [.read (base.portBase + offset) 32] }.pending =
      .read (base.portBase + offset) 32 :: [] := ⟨by decide, rfl⟩

theorem witness_PortWriteStoresOnlyInArg (i : Fin 4) : base.Ok ∧
    { State.reset with pending := [.write (base.portBase + BitVec.ofNat 32 (4 + 4 * i.val)) 32 9#32] }.pending =
      .write (base.portBase + BitVec.ofNat 32 (4 + 4 * i.val)) 32 9#32 :: [] ∧
    { State.reset with pending := [.write (base.portBase + 0x18#32) 32 9#32] }.pending =
      .write (base.portBase + 0x18#32) 32 9#32 :: [] := ⟨by decide, rfl, rfl⟩

/-- Widths 16 and 64; the addresses 1 and 3; the offset 0x1C, one past `STATUS`, and the one before
`CMD`. -/
theorem witness_DisallowedHostAccessIsRefused :
    step { State.reset with pending := [.read 0#32 16] } = .refused .hostAccessWidth ∧
    step { State.reset with pending := [.write 0x18#32 64 0#32] } = .refused .hostAccessWidth ∧
    step { State.reset with pending := [.read 0x1#32 32] } = .refused .hostAccessMisaligned ∧
    step { State.reset with pending := [.write 0x3#32 32 0#32] } = .refused .hostAccessMisaligned ∧
    step { State.reset with pending := [.read 0x1C#32 32] } = .refused .hostAccessNoRegister ∧
    step { State.reset with pending := [.write 0xFFFFFFFC#32 32 0#32] } = .refused .hostAccessNoRegister :=
  ⟨rfl, rfl, rfl, rfl, rfl, rfl⟩

theorem witness_StepAnswersExactlyTheAllowedEvents :
    HostEvent.Allowed base (.write 0x18#32 32 0#32) ∧ ¬ HostEvent.Allowed base (.read 0x1C#32 32) :=
  ⟨⟨rfl, rfl, 6, by decide, rfl⟩, fun h => absurd h.2.2 (by decide)⟩

theorem witness_ResetLeavesTheStatedValues : fixedValue.Ok ∧
    { faultedBlock with pending := [.reset fixedValue] }.pending = .reset fixedValue :: [] := by decide

theorem witness_OnlyResetClearsFaultCachesConfiguration :
    let s := { commanded faultedBlock 0xB with pwmClk := .resolved 3, mmcClk := .resolved 4 }
    let u := { s with pending := [.reset fixedValue] }
    (s.NoResetNext ∧ step s = .next (afterStep s) ∧ s.control = .faulted ∧ s.pwmClk = .resolved 3 ∧
      s.mmcClk = .resolved 4) ∧
    u.pending.head? = some (.reset fixedValue) ∧ step u = .next (afterStep u) :=
  ⟨⟨by rintro e ⟨⟩; rfl, rfl, rfl, rfl, rfl⟩, rfl, rfl⟩

/-- A state that meets the invariant with a command to come that resolves a clock. -/
theorem witness_StepKeepsTheBlockInvariant :
    let s := commanded (ready base #v[1000000, 500000, 0, 0] 200000000 0) 0x2
    s.Inv ∧ step s = .next (afterStep s) := by
  refine ⟨⟨by decide, .inl ⟨rfl, by decide⟩, ?_, ⟨?_, ?_⟩, rfl⟩, rfl⟩
  · intro e he; cases he
  · intro h hh; cases hh
  · intro h hh; cases hh

theorem witness_StepLeavesNoChannelArmed :
    let s := commanded (ready base #v[1000000, 500000, 0, 0] 200000000 0) 0x42
    s.cfg.Ok ∧ s.Unarmed ∧ s.NoResetNext ∧ step s = .next (afterStep s) :=
  ⟨by decide, by unfold State.Unarmed; decide, by rintro e ⟨⟩; rfl, rfl⟩

theorem witness_UnsupportedChannelOnlySetsCode : 5 ≤ 5 ∧ 5 ≤ 15 := by decide

/-- The clock resolved now, cached, and not found. -/
theorem witness_PwmDeriveTinMeaning :
    (ready base #v[1000, 0, 0, 0] 200000000 0).PwmClockIs 7 ∧
    { ready fixed #v[1000, 0, 0, 0] 200000000 0 with pwmClk := .resolved 3 }.PwmClockIs 3 ∧
    (notFound base #v[1000, 0, 0, 0]).PwmClockNotFound := by decide

/-- One parent rate for each divider, and one for none; the dividers 2 and 4 at the boundary. -/
theorem witness_TinSearchPicksFirstQualifyingDivider :
    24000000 / (2 * 65536) < 1000 ∧ (131072000 / (4 * 65536) < 1000 ∧ 1000 ≤ 131072000 / (2 * 65536)) ∧
    (300000000 / (8 * 65536) < 1000 ∧ 1000 ≤ 300000000 / (4 * 65536)) ∧
    (200000000 / (16 * 65536) < 191 ∧ 191 ≤ 200000000 / (8 * 65536)) ∧
    100 ≤ 200000000 / (16 * 65536) := by decide

theorem witness_FixedReadbackRateDividesTwice : fixedValue.Ok := by decide

theorem witness_PlainReadbackLosesTheHostsDivider :
    let s := ready fixed #v[1000000, 500000, 0, 0] 24000000 0
    s.cfg.tinPolicy = .fixedReadback ∧ s.cfg.tcfgReadback = .plain ∧ s.PwmClockIs 7 ∧
      ¬ outOfRange s.arg[0] s.arg[1] ∧ ¬ s.arg[0] < s.arg[1] := by decide

/-- E2: the boundaries of the checks; S20: past them, the clock not found. -/
theorem witness_PwmSetConfigChecksInOrder :
    outOfRange 0#32 0#32 ∧ outOfRange 1000000001#32 0#32 ∧ outOfRange 1000000000#32 1000000001#32 ∧
    (¬ outOfRange 999999999#32 1000000000#32 ∧ 999999999#32 < 1000000000#32) ∧
    (¬ outOfRange 1000000000#32 1000000000#32 ∧ ¬ 1000000000#32 < 1000000000#32) ∧
    (notFound base #v[1000000000, 1000000000, 0, 0]).PwmClockNotFound := by decide

/-- S1: the values of the statement's variables, with `Wrap`; S12: the `Plain` variant with a count of 0. -/
theorem witness_PwmSetConfigMeaning :
    let s := ready base #v[1000000, 500000, 0, 0] 200000000 0
    let u := ready { base with counterVariant := .plain } #v[3, 1, 0, 0] 200000000 0
    (¬ outOfRange s.arg[0] s.arg[1] ∧ ¬ s.arg[0] < s.arg[1] ∧ s.PwmClockIs 7 ∧
      s.derivedRate 0 (1000000000#32 / s.arg[0]) = 50000000#32 ∧ 1000000000#32 / 50000000#32 = 20#32 ∧
      s.arg[0] / 20#32 = 50000#32 ∧
      ¬ (s.cfg.counterVariant = .fromZero ∧ s.cfg.counterUnderflow = .fault ∧ 50000#32 = 0#32)) ∧
    (u.derivedRate 0 (1000000000#32 / u.arg[0]) = 100000000#32 ∧ u.arg[0] / 10#32 = 0#32 ∧
      ¬ (u.cfg.counterVariant = .fromZero ∧ u.cfg.counterUnderflow = .fault ∧ u.arg[0] / 10#32 = 0#32)) := by
  decide

/-- S17, S16 and S11: one state for each reason. -/
theorem witness_OnlySetConfigFaultsAtThreePoints :
    (ready base #v[1000000, 0, 0, 0] 0 0).derivedRate 0 (1000000000#32 / 1000000#32) = 0#32 ∧
    1000000000#32 < (ready fixed #v[1000000, 0, 0, 0] 2000000000 0).derivedRate 0 (1000000000#32 / 1000000#32) ∧
    (ready underflowFaults #v[3, 1, 0, 0] 200000000 0).PwmClockIs 7 ∧
    (ready underflowFaults #v[3, 1, 0, 0] 200000000 0).derivedRate 0 (1000000000#32 / 3#32) = 100000000#32 ∧
    3#32 / (1000000000#32 / 100000000#32) = 0#32 := by decide

theorem witness_OneOutcomeInOrderOfPrecedence :
    (expectedOutcome (.pwmSetConfig 0) (ready underflowFaults #v[3, 1, 0, 0] 200000000 0)) = (6, some 3) ∧
    State.reset.control = .idle ∧ decode 0x4#32 = .error .unassignedOp := by decide

/-- An error of each form of the statement: with no event, and with the failed `ClkResolve`. -/
theorem witness_ErroredCommandChangesOnlyCode :
    statusCode (setConfig base 0 100 101 1).status = 2 ∧
    statusCode (after .mmcSetClock (notFound base #v[1, 0, 0, 0])).status = 3 := by decide

/-- A success (with saturation, E1), for the three statements about a successful `PWM.SET_CONFIG`. -/
theorem witness_CompareNeverExceedsReload :
    exec (.pwmSetConfig (0 : Channel).val) (ready base #v[1000000, 1000000, 0, 0] 200000000 0) =
      .next (setConfig base 0 1000000 1000000 200000000) ∧
    statusCode (setConfig base 0 1000000 1000000 200000000).status = 0 := ⟨rfl, by decide⟩

theorem witness_CompareIsInvertedAndSaturated :
    let s := ready base #v[1000000, 1000000, 0, 0] 200000000 0
    50000 = s.arg[1].toNat / (1000000000 / (s.derivedRate 0 (1000000000#32 / s.arg[0])).toNat) ∧
    (setConfig base 0 1000000 1000000 200000000).tcntb[0].toNat < 50000 := by decide

theorem witness_HandshakeArmsThenDisarms : base.Ok ∧
    statusCode (setConfig base 4 1000000 500000 200000000).status = 0 := by decide

theorem witness_OnlyTheNamedChannelsTconBitsChange :
    channelOf (.pwmSetEnable 0 true) = some (0 : Channel).val ∧
    (∀ r : TconRole, r = .start ∨ r = .update ∨ r = .autoReload → 8 ≠ base.tconBit r 0) ∧
    channelOf .mmcProgramDelay = none := by
  refine ⟨rfl, ?_, rfl⟩
  rintro r (rfl | rfl | rfl) <;> decide

/-- E5: the second command finds the handle cached and reads the same rate. -/
theorem witness_RepeatedSetConfigWritesTheSame :
    let s := ready base #v[20000, 15000, 0, 0] 100000000 0
    let t := setConfig base 2 20000 15000 100000000
    let t' := { t with collab := { t.collab with rates := [100000000#32] } }
    s.PwmClockIs 7 ∧ exec (.pwmSetConfig 2) s = .next t ∧ t'.collab.nextRate = s.pwmRate ∧
      exec (.pwmSetConfig 2) t' = .next (after (.pwmSetConfig 2) t') :=
  ⟨by decide, rfl, by decide, rfl⟩

theorem witness_PwmSetEnableMeaning :
    enableWord base 4 true 0#32 = 1#32 <<< base.tconBit .start 4 ∧ base.tconBit .start 4 = 20 := by decide

theorem witness_MmcGetBaseClockMeaning :
    (ready base #v[0, 0, 0, 0] 0xFFFFFFFF 0).MmcClockIs 7 ∧
    { ready base #v[0, 0, 0, 0] 1 0 with mmcClk := .resolved 3 }.MmcClockIs 3 ∧
    (notFound base #v[0, 0, 0, 0]).MmcClockNotFound := by decide

theorem witness_MmcSetClockMeaning :
    (ready base #v[0, 0, 0, 0] 0 400000).MmcClockIs 7 ∧
    { ready base #v[0, 0, 0, 0] 0 1 with mmcClk := .resolved 3 }.MmcClockIs 3 ∧
    (notFound base #v[25000000, 0, 0, 0]).MmcClockNotFound := by decide

/-- The layout at both ends of the range of `CLKDLY_SS_LSB`. -/
theorem witness_PositionalDelayWordBits :
    Config.Ok { base with clkdlySsLsb := 18 } ∧ Config.Ok { base with clkdlySsLsb := 30 } ∧
    base.clkdlyLayout = .positional ∧
    packDelay { base with clkdlySsLsb := 30 } 0 0 0 2 = 0x80000000#32 ∧
    packDelay { base with clkdlySsLsb := 18 } 0 3 0 1 = 0x00070000#32 := by decide

theorem witness_SourceLiteralDelayWordBits : literal.clkdlyLayout = .sourceLiteral ∧
    packDelay literal 0 0x80 0 1 = 0x00018000#32 := by decide

theorem witness_ClockModesDifferOnlyInRatio :
    exec (.mmcSelectClockMode true) State.reset = .next (after (.mmcSelectClockMode true) State.reset) ∧
    exec (.mmcSelectClockMode false) State.reset = .next (after (.mmcSelectClockMode false) State.reset) :=
  ⟨rfl, rfl⟩

/-- Every statement whose only hypothesis is that `exec` answers a next state: it always does; and one command
of each engine. -/
theorem witness_EnginesAreIndependent : (∀ i s, ∃ t, exec i s = .next t) ∧
    isPwm (.pwmSetConfig 0) = true ∧ isPwm .mmcSetClock = false :=
  ⟨exec_answers_next, rfl, rfl⟩

theorem witness_CommandsWriteOnlyTheirRegisters :
    (∃ t, exec (.pwmSetConfig 3) State.reset = .next t) ∧ ¬ MayWrite (.pwmSetConfig 3) .clksel ∧
    ¬ MayWrite .mmcSetClock (.tcntb 4) :=
  ⟨exec_answers_next _ _, by simp [MayWrite], by simp [MayWrite]⟩

/-- Not cached, and cached. -/
theorem witness_ClkResolveIsCalledAtMostOnce : (∀ i s, ∃ t, exec i s = .next t) ∧
    State.reset.mmcClk = .unresolved ∧
    { State.reset with mmcClk := .resolved 1, pwmClk := .resolved 2 }.mmcClk = .resolved 1 :=
  ⟨exec_answers_next, rfl, rfl⟩

/-- The bound is met: eleven events of a first `PWM.SET_CONFIG` under the fixed readback (S19). -/
theorem witness_CommandsMakeBoundedEvents :
    (setConfig fixed 0 1000000 500000 24000000).trace.length = maxEvents (.pwmSetConfig 0) ∧
    State.reset.control = .idle ∧ decode 0x18#32 = .error .channelMustBeZero := by decide

theorem witness_ArgStaysUntilTheHostWritesIt :
    let s := { State.reset with pending := [.write 0x8#32 32 5#32] }
    s.cfg.Ok ∧ s.NoResetNext ∧
      (∀ v, s.pending.head? ≠ some (.write (s.cfg.portBase + BitVec.ofNat 32 (4 + 4 * (0 : Fin 4).val)) 32 v)) ∧
      step s = .next (afterStep s) := by
  refine ⟨by decide, ?_, ?_, rfl⟩
  · rintro e ⟨⟩; rfl
  · intro v h
    have ha : 0x8#32 = 0x4#32 := by injection h with h; injection h
    exact absurd ha (by decide)

theorem witness_ResultChangesOnlyOnSuccess : returnsValue (.pwmSetConfig 0) = false ∧
    statusCode (after .mmcGetBaseClock (notFound base #v[0, 0, 0, 0])).status ≠ 0 := by decide

theorem witness_StatusFieldsAreWrittenAsStated :
    statusCode (setConfig base 0 0 0 1).status ≠ 6 ∧ statusFault 0x80000026#32 = true := by decide

theorem witness_PseudoInstructionsAssembleToTheirCommands :
    assemble base (.enable 15) = some [.write 0#32 32 0x000001F3#32] := by decide

theorem witness_AssembledLineRunsItsCommand : base.Ok ∧ State.reset.control = .idle ∧
    (assemble base (.deriveTin 15 0xFFFFFFFF)).isSome ∧ (assemble base (.setConfig 0 0 0)).isSome ∧
    (assemble base (.setEnable 15 1)).isSome ∧ (assemble base .getBaseClock).isSome ∧
    (assemble base (.setClock 0xFFFFFFFF)).isSome ∧ (assemble base (.programDelay 1 2 3 4)).isSome ∧
    (assemble base (.selectClockMode 1)).isSome := by decide

end Sys2Proof.Tests
end

section
/-! The three faults of `PWM.SET_CONFIG` (60_exceptions.md R148), and that no other command faults. -/

namespace Sys2Proof.Machine

/-- The first fault point: the rate is 0 (40_pwm.md R91). -/
theorem pwmTiming_rateZero (c : Config) (period duty : Word) :
    pwmTiming c period duty 0#32 = .error .tinRateZero := by
  simp [pwmTiming]

/-- The second fault point: a rate above `NS` makes the period of a tick 0 (40_pwm.md R91). -/
theorem pwmTiming_nsZero (c : Config) (period duty : Word) {tin : Word} (h : ns < tin) :
    pwmTiming c period duty tin = .error .tinNsZero := by
  have hne : tin ≠ 0#32 := by rintro rfl; simp at h
  have hdiv : ns / tin = 0#32 := BitVec.udiv_eq_zero_iff_eq_zero_or_lt.mpr (.inr h)
  simp [pwmTiming, hne, hdiv]

/-- The third fault point: the count is 0 where that is a fault (40_pwm.md R91). -/
theorem pwmTiming_underflow {c : Config} {period tin : Word} (duty : Word) (hne : tin ≠ 0#32)
    (hle : ¬ ns < tin) (hv : c.counterVariant = .fromZero) (hu : c.counterUnderflow = .fault)
    (hq : period / (ns / tin) = 0#32) :
    pwmTiming c period duty tin = .error .counterUnderflow := by
  have hdiv : ns / tin ≠ 0#32 := fun h =>
    (BitVec.udiv_eq_zero_iff_eq_zero_or_lt.mp h).elim hne hle
  simp [pwmTiming, hne, hdiv, hq, counterReload, hv, hu]

/-- `PWM.SET_CONFIG` with a timing that faults. -/
theorem exec_setConfig_of_fault {s : State} {h : Handle} {ch : Channel} {r : FaultReason}
    (hr : ¬ outOfRange (s.operand 0) (s.operand 1)) (hd : ¬ s.operand 0 < s.operand 1)
    (hi : s.PwmClockIs h)
    (hf : pwmTiming s.cfg (s.operand 0) (s.operand 1) (s.derivedRate ch (ns / s.operand 0)) = .error r) :
    exec (.pwmSetConfig ch.val) s = .next (raiseFault r (s.afterDerive h)) := by
  show execPwmSetConfig ch.val s = _
  rw [execPwmSetConfig_of_is hi ch hr hd, hf]

/-- A fault leaves every bit of `STATUS` between `FREASON` and `FAULT` (00_scope.md R14). -/
theorem setFaultBits_bit_middle (w : Word) (r : BitVec 4) {k : Nat} (h8 : 8 ≤ k) (h31 : k < 31) :
    (setFaultBits w r).getLsbD k = w.getLsbD k := by
  rw [setFaultBits_bit, if_neg (by omega), if_neg (by omega), if_neg (by omega)]

/-- Every command but `PWM.SET_CONFIG` leaves the control state, and in `STATUS` replaces `CODE` only. -/
theorem exec_replaces_code_only {i : Instr} {s t : State} (hi : ∀ ch, i ≠ .pwmSetConfig ch)
    (ht : exec i s = .next t) : t.control = s.control ∧ ∃ c, t.status = setCode s.status c := by
  cases i with
  | pwmDeriveTin ch =>
    rcases execPwmDeriveTin_forms ht with ⟨_, rfl⟩ | ⟨_, _, ⟨_, rfl⟩ | ⟨_, _, rfl⟩⟩ <;>
      exact ⟨rfl, _, rfl⟩
  | pwmSetConfig ch => exact absurd rfl (hi ch)
  | pwmSetEnable ch enable =>
    rcases execPwmSetEnable_forms ht with ⟨_, rfl⟩ | ⟨_, _, rfl⟩ <;> exact ⟨rfl, _, rfl⟩
  | mmcGetBaseClock =>
    rcases execMmcGetBaseClock_forms ht with ⟨_, rfl⟩ | ⟨_, _, rfl⟩ <;> exact ⟨rfl, _, rfl⟩
  | mmcSetClock =>
    rcases execMmcSetClock_forms ht with ⟨_, rfl⟩ | ⟨_, _, rfl⟩ <;> exact ⟨rfl, _, rfl⟩
  | mmcProgramDelay =>
    obtain rfl := execMmcProgramDelay_forms ht
    exact ⟨rfl, _, rfl⟩
  | mmcSelectClockMode boosted =>
    obtain rfl := execMmcSelectClockMode_forms ht
    exact ⟨rfl, _, rfl⟩

/-- Settles O25: each fault point is the branch of `pwmTiming` with its reason, and every other command
only replaces `CODE`. -/
theorem onlySetConfigFaultsAtThreePoints : Obligations.OnlySetConfigFaultsAtThreePoints := by
  refine ⟨?_, ?_⟩
  · rintro s ch h tin hr hd hi rfl reason hpoint
    have hfault : ∃ r : FaultReason, r.code = reason ∧
        pwmTiming s.cfg (s.operand 0) (s.operand 1) (s.derivedRate ch (ns / s.operand 0)) = .error r := by
      rcases hpoint with ⟨hz, rfl⟩ | ⟨hgt, rfl⟩ | ⟨hne, hle, hv, hu, hq, rfl⟩
      · exact ⟨.tinRateZero, rfl, (congrArg _ hz).trans (pwmTiming_rateZero _ _ _)⟩
      · exact ⟨.tinNsZero, rfl, pwmTiming_nsZero _ _ _ hgt⟩
      · exact ⟨.counterUnderflow, rfl, pwmTiming_underflow _ hne hle hv hu hq⟩
    obtain ⟨r, rfl, hr'⟩ := hfault
    exact ⟨setFaultBits s.status r.code, exec_setConfig_of_fault hr hd hi hr',
      statusFault_setFaultBits _ _, statusFreason_setFaultBits _ _, statusCode_setFaultBits _ _,
      fun _ => setFaultBits_bit_middle _ _⟩
  · intro i s t hi ht
    obtain ⟨hc, c, hs⟩ := exec_replaces_code_only hi ht
    exact ⟨hc, by rw [hs, statusFault_setCode], by rw [hs, statusFreason_setCode]⟩

end Sys2Proof.Machine
end

section
/-! The command port, one access at a time (10_state.md R21, R26, R57): a step with a host access next, and
what the block answers. -/

namespace Sys2Proof.Machine

/-- An aligned 32-bit access at one of the seven offsets reaches the register there. -/
theorem portAccess_portRegOf (c : Config) (hb : c.portBase.toNat % 4 = 0) {k : Nat} (hk : k < 7) :
    portAccess c (c.portBase + BitVec.ofNat 32 (4 * k)) 32 = .ok (portRegOf k) := by
  rw [portAccess_offset c hb k, (portRegAt_eq_some _ _).2 ⟨k, hk, rfl, rfl⟩]

/-- A step that performs a read of a port register (20_memory.md R57). -/
theorem step_portRead {s : State} {rest : List HostEvent} {a : Word} (hb : s.cfg.portBase.toNat % 4 = 0)
    {k : Nat} (hk : k < 7) (ha : a = s.cfg.portBase + BitVec.ofNat 32 (4 * k))
    (hp : s.pending = .read a 32 :: rest) :
    step s = .next { s with pending := rest, lastRead := some (s.portValue (portRegOf k)) } := by
  rw [step_pending hp, ha]
  simp only [perform, portAccess_portRegOf s.cfg hb hk]
  cases portRegOf k <;> rfl

/-- A step that performs a write to a port register. -/
theorem step_portWrite {s : State} {rest : List HostEvent} {a v : Word}
    (hb : s.cfg.portBase.toNat % 4 = 0) {k : Nat} (hk : k < 7)
    (ha : a = s.cfg.portBase + BitVec.ofNat 32 (4 * k)) (hp : s.pending = .write a 32 v :: rest) :
    step s = portWrite (portRegOf k) v { s with pending := rest } := by
  rw [step_pending hp, ha]
  simp only [perform, portAccess_portRegOf s.cfg hb hk]

/-- The register at the offset of `ARG[i]`. -/
theorem portRegOf_arg (i : Fin 4) : portRegOf (i.val + 1) = .arg i := by
  revert i
  decide

/-- A write that reaches `ARG[i]` is at its offset. -/
theorem portAccess_arg_addr {c : Config} {addr : Word} {bits : Nat} {i : Fin 4}
    (h : portAccess c addr bits = .ok (.arg i)) :
    addr = c.portBase + BitVec.ofNat 32 (4 + 4 * i.val) := by
  obtain ⟨_, _, k, hk, rfl, hr⟩ := portAccess_ok h
  have offset : ∀ (k : Fin 7) (i : Fin 4), PortReg.arg i = portRegOf k.val → 4 * k.val = 4 + 4 * i.val := by
    decide
  rw [offset ⟨k, hk⟩ i hr]

/-- Settles O6: a `CMD` write is `launch`, split by the control state and by what the word decodes to. -/
theorem stepRunsTheWrittenCommand : Obligations.StepRunsTheWrittenCommand := by
  rintro s w rest ⟨_, _, _, hb, _, _⟩
  have hcmd : s.cfg.portBase = s.cfg.portBase + BitVec.ofNat 32 (4 * 0) := by simp
  have hwrite (hp : s.pending = .write s.cfg.portBase 32 w :: rest) :
      step s = launch w { s with pending := rest } := step_portWrite hb (by decide) hcmd hp
  refine ⟨fun i hc hp hd => ?_, fun e hc hp hd => ?_, fun hc hp => ?_, step_portRead hb (by decide) hcmd⟩
  · simp only [hwrite hp, launch, hc, hd]
  · simp only [hwrite hp, launch, hc, hd]
    rfl
  · simp only [hwrite hp, launch, hc]

/-- Settles O8: offset 4k holds the register `portRegOf k`. -/
theorem portReadReturnsTheRegister : Obligations.PortReadReturnsTheRegister := by
  rintro s rest offset value ⟨_, _, _, hb, _, _⟩ hmem hp
  have hread (k : Nat) (hk : k < 7) (ho : offset = BitVec.ofNat 32 (4 * k)) :=
    step_portRead hb hk (by rw [ho]) hp
  simp only [List.mem_cons, Prod.mk.injEq, List.not_mem_nil, or_false] at hmem
  rcases hmem with ⟨ho, rfl⟩ | ⟨ho, rfl⟩ | ⟨ho, rfl⟩ | ⟨ho, rfl⟩ | ⟨ho, rfl⟩ | ⟨ho, rfl⟩ | ⟨ho, rfl⟩
  · exact hread 0 (by decide) ho
  · exact hread 1 (by decide) ho
  · exact hread 2 (by decide) ho
  · exact hread 3 (by decide) ho
  · exact hread 4 (by decide) ho
  · exact hread 5 (by decide) ho
  · exact hread 6 (by decide) ho

/-- Settles O9: the write reaches `ARG[i]`, `RESULT` or `STATUS`, and only `ARG[i]` stores it. -/
theorem portWriteStoresOnlyInArg : Obligations.PortWriteStoresOnlyInArg := by
  rintro s rest v ⟨_, _, _, hb, _, _⟩
  refine ⟨fun i hp => ?_, fun offset ho hp => ?_⟩
  · rw [step_portWrite hb (k := i.val + 1) (by omega) (by rw [Nat.mul_add, Nat.add_comm]) hp, portRegOf_arg]
    rfl
  · rcases ho with rfl | rfl
    · exact step_portWrite hb (k := 5) (by decide) rfl hp
    · exact step_portWrite hb (k := 6) (by decide) rfl hp

/-- Settles O45: no command writes `ARG` (`exec_keeps`), and a host write that does is at another offset. -/
theorem argStaysUntilTheHostWritesIt : Obligations.ArgStaysUntilTheHostWritesIt := by
  intro s t i _ hn hw h
  rcases step_noReset_cases hn h with ⟨_, _, rfl⟩ | ⟨j, v, p, a, rfl, hp, ha⟩ | ⟨c, p, _, hc⟩ | ⟨p, _, rfl⟩
  · rfl
  · have hij : j.val ≠ i.val := by
      intro hij
      rw [portAccess_arg_addr ha, Fin.ext hij] at hp
      exact hw v (by rw [hp]; rfl)
    exact Vector.getElem_set_ne j.isLt i.isLt hij
  · obtain ⟨_, harg, _⟩ := exec_keeps hc
    rw [harg]
  · rfl

end Sys2Proof.Machine
end

section
/-! The fixed-readback rate in natural numbers (10_state.md R29, R30; 40_pwm.md R87). -/

namespace Sys2Proof.Machine

/-- A bit field as a number (00_scope.md R9). -/
theorem bitField_toNat (w : Word) (lsb : Nat) {width : Nat} (hw : width ≤ 32) :
    (bitField w lsb width).toNat = w.toNat / 2 ^ lsb % 2 ^ width := by
  have hmask : 2 ^ width - 1 < 2 ^ 32 := by
    have := Nat.pow_le_pow_right (n := 2) (by decide) hw
    omega
  rw [bitField, BitVec.toNat_and, BitVec.toNat_ushiftRight, BitVec.toNat_ofNat, Nat.mod_eq_of_lt hmask,
    Nat.and_two_pow_sub_one_eq_mod, Nat.shiftRight_eq_div_pow]

/-- The prescaler divisor is the field plus 1: a field below 32 bits cannot wrap (10_state.md R29). -/
theorem prescalerDiv_toNat {c : Config} (hw : c.prescalerWidth < 32) (ch : Channel) (v0 : Word) :
    (prescalerDiv c ch v0).toNat = v0.toNat / 2 ^ prescalerLsb c ch % 2 ^ c.prescalerWidth + 1 := by
  have hpow : 2 ^ c.prescalerWidth < 2 ^ 32 := Nat.pow_lt_pow_right (by decide) hw
  have hfield := Nat.mod_lt (v0.toNat / 2 ^ prescalerLsb c ch) (Nat.two_pow_pos c.prescalerWidth)
  rw [prescalerDiv, BitVec.toNat_add, bitField_toNat _ _ hw.le]
  exact Nat.mod_eq_of_lt (by simp; omega)

/-- The mux divisor is the power of two of the field (10_state.md R30). -/
theorem muxPreDiv_toNat (c : Config) (ch : Channel) (v1 : Word) :
    (muxPreDiv c ch v1).toNat = 2 ^ (v1.toNat / 2 ^ c.muxLsb[ch.val] % 16) := by
  have hpow : 2 ^ (v1.toNat / 2 ^ c.muxLsb[ch.val] % 16) < 2 ^ 32 :=
    Nat.pow_lt_pow_right (by decide) (by omega)
  rw [muxPreDiv, BitVec.toNat_shiftLeft, bitField_toNat _ _ (by decide)]
  rw [Nat.shiftLeft_eq, BitVec.toNat_ofNat, Nat.mod_eq_of_lt (by decide : 1 < 2 ^ 32), Nat.one_mul,
    show 2 ^ 4 = 16 from rfl, Nat.mod_eq_of_lt hpow]

/-- Settles O21: both divisors are positive as numbers, and a division of words is one of numbers. -/
theorem fixedReadbackRateDividesTwice : Obligations.FixedReadbackRateDividesTwice := by
  rintro c ch parent v0 v1 ⟨_, ⟨_, hw, _⟩, _⟩
  have hdiv := prescalerDiv_toNat hw ch v0
  have hmux := muxPreDiv_toNat c ch v1
  refine ⟨fun h0 => ?_, fun h0 => ?_, ?_⟩
  · simp [h0] at hdiv
  · exact (Nat.two_pow_pos _).ne (hmux.symm.trans (by rw [h0]; rfl)).symm
  · rw [fixedReadbackRate, BitVec.toNat_udiv, BitVec.toNat_udiv, hdiv, hmux]
    rfl

end Sys2Proof.Machine
end

section
/-! What a command leaves in `tcon` (10_state.md R31, R32). -/

namespace Sys2Proof.Machine

/-- A mask of `tcon` has no bit but its own. -/
theorem tconMask_bit_ne {c : Config} {r : TconRole} {ch : Channel} {k : Nat} (hk : k ≠ c.tconBit r ch) :
    (tconMask c r ch).getLsbD k = false := by
  simp only [tconMask, BitVec.getLsbD_shiftLeft, BitVec.getLsbD_one]
  simp
  omega

/-- Clearing a mask keeps the bits outside it. -/
theorem and_not_bit {w m : Word} {k : Nat} (hm : m.getLsbD k = false) :
    (w &&& ~~~m).getLsbD k = w.getLsbD k := by
  simpa [hm] using BitVec.lt_of_getLsbD

/-- The update handshake keeps every bit but the channel's update and auto-reload bits (30_encoding.md R76). -/
theorem handshakeWord_bit {c : Config} {ch : Channel} {t : Word} {k : Nat}
    (hk : ∀ r, k ≠ c.tconBit r ch) :
    (disarmedWord c ch (armedWord c ch t)).getLsbD k = t.getLsbD k := by
  rw [disarmedWord, and_not_bit (tconMask_bit_ne (hk .update))]
  simp [armedWord, tconMask_bit_ne (hk _)]

/-- `PWM.SET_ENABLE` keeps every bit but the channel's start bit (30_encoding.md R76). -/
theorem enableWord_bit {c : Config} {ch : Channel} {enable : Bool} {t : Word} {k : Nat}
    (hk : ∀ r, k ≠ c.tconBit r ch) :
    (enableWord c ch enable t).getLsbD k = t.getLsbD k := by
  have hm := tconMask_bit_ne (hk .start)
  cases enable with
  | true => simp [enableWord, hm]
  | false => simp only [enableWord, Bool.false_eq_true, if_false, and_not_bit hm]

/-- Everything a command can do to `tcon`: keep it, run the handshake of the channel it names, or set that
channel's start bit. -/
theorem exec_tcon {i : Instr} {s t : State} (h : exec i s = .next t) :
    t.tcon = s.tcon ∨ ∃ ch : Channel, channelOf i = some ch.val ∧
      (t.tcon = disarmedWord s.cfg ch (armedWord s.cfg ch s.tcon) ∨
        ∃ enable, t.tcon = enableWord s.cfg ch enable s.tcon) := by
  cases i with
  | pwmDeriveTin ch =>
    rcases execPwmDeriveTin_forms h with ⟨_, rfl⟩ | ⟨_, _, ⟨_, rfl⟩ | ⟨_, _, rfl⟩⟩ <;> exact .inl rfl
  | pwmSetConfig ch =>
    rcases execPwmSetConfig_forms h with ⟨_, rfl⟩ | ⟨c, rfl, ⟨_, rfl⟩ | ⟨_, _, rfl⟩ |
      ⟨_, _, ⟨_, rfl⟩ | ⟨_, _, ⟨_, _, rfl⟩ | ⟨_, _, _, rfl⟩⟩⟩⟩
    · exact .inl rfl
    · exact .inl rfl
    · exact .inl rfl
    · exact .inl rfl
    · exact .inl rfl
    · exact .inr ⟨c, rfl, .inl rfl⟩
  | pwmSetEnable ch enable =>
    rcases execPwmSetEnable_forms h with ⟨_, rfl⟩ | ⟨c, rfl, rfl⟩
    · exact .inl rfl
    · exact .inr ⟨c, rfl, .inr ⟨enable, rfl⟩⟩
  | mmcGetBaseClock =>
    rcases execMmcGetBaseClock_forms h with ⟨_, rfl⟩ | ⟨_, _, rfl⟩ <;> exact .inl rfl
  | mmcSetClock =>
    rcases execMmcSetClock_forms h with ⟨_, rfl⟩ | ⟨_, _, rfl⟩ <;> exact .inl rfl
  | mmcProgramDelay =>
    obtain rfl := execMmcProgramDelay_forms h
    exact .inl rfl
  | mmcSelectClockMode boosted =>
    obtain rfl := execMmcSelectClockMode_forms h
    exact .inl rfl

/-- Settles O31: both words a command can leave in `tcon` keep the bits outside its channel's masks. -/
theorem onlyTheNamedChannelsTconBitsChange : Obligations.OnlyTheNamedChannelsTconBitsChange := by
  intro i s t k h hk
  rcases exec_tcon h with ht | ⟨ch, hch, ht | ⟨enable, ht⟩⟩ <;> rw [ht]
  · exact handshakeWord_bit fun r => hk ch r hch
  · exact enableWord_bit fun r => hk ch r hch

end Sys2Proof.Machine
end

section
/-! How a command ends (60_exceptions.md R145, R146, R148): what it leaves in `STATUS`, `RESULT` and the
control state. -/

namespace Sys2Proof.Machine

/-- The three ways a command ends: success, which alone may write `RESULT`; an error; a fault. -/
theorem exec_endings {i : Instr} {s t : State} (h : exec i s = .next t) :
    (t.control = s.control ∧ t.status = setCode s.status okCode ∧
      (returnsValue i = false → t.result = s.result)) ∨
    (∃ e : ErrorKind, t.control = s.control ∧ t.status = setCode s.status e.code ∧ t.result = s.result) ∨
    (∃ r : FaultReason, t.control = .faulted ∧ t.status = setFaultBits s.status r.code ∧
      t.result = s.result) := by
  cases i with
  | pwmDeriveTin ch =>
    rcases execPwmDeriveTin_forms h with ⟨_, rfl⟩ | ⟨_, _, ⟨_, rfl⟩ | ⟨_, _, rfl⟩⟩
    · exact .inr (.inl ⟨_, rfl, rfl, rfl⟩)
    · exact .inr (.inl ⟨_, rfl, rfl, rfl⟩)
    · exact .inl ⟨rfl, rfl, nofun⟩
  | pwmSetConfig ch =>
    rcases execPwmSetConfig_forms h with ⟨_, rfl⟩ | ⟨_, _, ⟨_, rfl⟩ | ⟨_, _, rfl⟩ |
      ⟨_, _, ⟨_, rfl⟩ | ⟨_, _, ⟨_, _, rfl⟩ | ⟨_, _, _, rfl⟩⟩⟩⟩
    · exact .inr (.inl ⟨_, rfl, rfl, rfl⟩)
    · exact .inr (.inl ⟨_, rfl, rfl, rfl⟩)
    · exact .inr (.inl ⟨_, rfl, rfl, rfl⟩)
    · exact .inr (.inl ⟨_, rfl, rfl, rfl⟩)
    · exact .inr (.inr ⟨_, rfl, rfl, rfl⟩)
    · exact .inl ⟨rfl, rfl, fun _ => rfl⟩
  | pwmSetEnable ch enable =>
    rcases execPwmSetEnable_forms h with ⟨_, rfl⟩ | ⟨_, _, rfl⟩
    · exact .inr (.inl ⟨_, rfl, rfl, rfl⟩)
    · exact .inl ⟨rfl, rfl, fun _ => rfl⟩
  | mmcGetBaseClock =>
    rcases execMmcGetBaseClock_forms h with ⟨_, rfl⟩ | ⟨_, _, rfl⟩
    · exact .inr (.inl ⟨_, rfl, rfl, rfl⟩)
    · exact .inl ⟨rfl, rfl, nofun⟩
  | mmcSetClock =>
    rcases execMmcSetClock_forms h with ⟨_, rfl⟩ | ⟨_, _, rfl⟩
    · exact .inr (.inl ⟨_, rfl, rfl, rfl⟩)
    · exact .inl ⟨rfl, rfl, nofun⟩
  | mmcProgramDelay =>
    obtain rfl := execMmcProgramDelay_forms h
    exact .inl ⟨rfl, rfl, fun _ => rfl⟩
  | mmcSelectClockMode boosted =>
    obtain rfl := execMmcSelectClockMode_forms h
    exact .inl ⟨rfl, rfl, nofun⟩

/-- The code of an error is at most 4 (60_exceptions.md R146). -/
theorem ErrorKind.code_le (e : ErrorKind) : e.code.toNat ≤ 4 := by
  cases e <;> decide

/-- A command that does not fault keeps the control state and replaces `CODE` by a number up to 4. -/
theorem exec_code_or_fault {i : Instr} {s t : State} (h : exec i s = .next t) :
    (t.control = s.control ∧ ∃ c : BitVec 4, c.toNat ≤ 4 ∧ t.status = setCode s.status c) ∨
    (t.control = .faulted ∧ ∃ r : FaultReason, t.status = setFaultBits s.status r.code) := by
  rcases exec_endings h with ⟨hc, hs, _⟩ | ⟨e, hc, hs, _⟩ | ⟨r, hc, hs, _⟩
  · exact .inl ⟨hc, okCode, by decide, hs⟩
  · exact .inl ⟨hc, e.code, e.code_le, hs⟩
  · exact .inr ⟨hc, r, hs⟩

/-- Settles O46: only success may write `RESULT`, and it sets code 0. -/
theorem resultChangesOnlyOnSuccess : Obligations.ResultChangesOnlyOnSuccess := by
  intro i s t h hno
  rcases exec_endings h with ⟨_, hs, hr⟩ | ⟨_, _, _, hr⟩ | ⟨_, _, _, hr⟩
  · have hcode : statusCode t.status = 0 := by rw [hs, statusCode_setCode]; rfl
    exact hr (hno.resolve_right fun hne => hne hcode)
  · exact hr
  · exact hr

/-- Settles O47: a command replaces `CODE` alone, or sets the bits of a fault. -/
theorem statusFieldsAreWrittenAsStated : Obligations.StatusFieldsAreWrittenAsStated := by
  intro i s t h
  rcases exec_code_or_fault h with ⟨_, c, hc, hs⟩ | ⟨_, r, hs⟩ <;> rw [hs]
  · refine ⟨fun k h8 _ => setCode_bit_high _ _ _ (by omega), fun _ => ?_, fun hf => ?_, ?_⟩
    · exact ⟨statusFreason_setCode _ _, statusFault_setCode _ _⟩
    · rwa [statusFault_setCode]
    · rw [statusCode_setCode]
      omega
  · refine ⟨fun k => setFaultBits_bit_middle _ _, fun hne => ?_, fun _ => statusFault_setFaultBits _ _, ?_⟩
    · exact absurd (statusCode_setFaultBits _ _) hne
    · rw [statusCode_setFaultBits]
      decide

end Sys2Proof.Machine
end

section
/-! The invariant of the block: its `STATUS` part follows from how a command ends, its trace part from the
events a command appends. -/

namespace Sys2Proof.Machine

/-- The word that a new code leaves in `STATUS` of an idle block. -/
theorem setCode_of_idle {w : Word} (hw : w ∈ [0#32, 1#32, 2#32, 3#32, 4#32, 5#32]) (c : BitVec 4) :
    setCode w c = c.setWidth 32 := by
  have hclear : w &&& ~~~0x0000000F#32 = 0#32 := by
    simp only [List.mem_cons, List.not_mem_nil, or_false] at hw
    rcases hw with rfl | rfl | rfl | rfl | rfl | rfl <;> rfl
  rw [setCode, hclear, BitVec.zero_or]

/-- The word that a fault leaves in `STATUS` of an idle block. -/
theorem setFaultBits_of_idle {w : Word} (hw : w ∈ [0#32, 1#32, 2#32, 3#32, 4#32, 5#32]) (r : FaultReason) :
    setFaultBits w r.code ∈ [0x80000016#32, 0x80000026#32, 0x80000036#32] := by
  simp only [List.mem_cons, List.not_mem_nil, or_false] at hw
  rcases hw with rfl | rfl | rfl | rfl | rfl | rfl <;> cases r <;> decide

/-- `STATUS` of an idle block is a code 0 to 5. -/
theorem status_of_idle {s : State} (h : s.StatusLegal) (hi : s.control = .idle) :
    s.status ∈ [0#32, 1#32, 2#32, 3#32, 4#32, 5#32] := by
  rcases h with ⟨_, hw⟩ | ⟨hf, _⟩
  · exact hw
  · rw [hi] at hf
    cases hf

/-- A new code up to 5 in an idle block keeps `STATUS` legal. -/
theorem statusLegal_of_setCode {s t : State} (h : s.StatusLegal) (hi : s.control = .idle)
    (hc : t.control = s.control) {c : BitVec 4} (hle : c.toNat ≤ 5) (ht : t.status = setCode s.status c) :
    t.StatusLegal := by
  refine .inl ⟨hc.trans hi, ?_⟩
  rw [ht, setCode_of_idle (status_of_idle h hi)]
  exact (by decide : ∀ c : BitVec 4, c.toNat ≤ 5 →
    c.setWidth 32 ∈ [0#32, 1#32, 2#32, 3#32, 4#32, 5#32]) c hle

/-- A command of an idle block keeps `STATUS` legal. -/
theorem exec_statusLegal {i : Instr} {s t : State} (h : exec i s = .next t) (hl : s.StatusLegal)
    (hi : s.control = .idle) : t.StatusLegal := by
  rcases exec_code_or_fault h with ⟨hc, c, hle, hs⟩ | ⟨hc, r, hs⟩
  · exact statusLegal_of_setCode hl hi hc (by omega) hs
  · exact .inr ⟨hc, hs ▸ setFaultBits_of_idle (status_of_idle hl hi) r⟩

/-- The part of the invariant about the trace and the two caches. -/
def State.TraceInv (s : State) : Prop := s.TraceLegal ∧ s.HandlesFromTrace ∧ s.OneResolutionEach

/-- An event that gives no handle and, if it is an access, is at a target register. -/
def Event.Quiet (c : Config) (e : Event) : Prop := e.AddrLegal c ∧ e.isResolution = false

@[simp] theorem quiet_memRead (c : Config) (r : TargetReg) (v : Word) :
    (Event.memRead (r.addr c) v).Quiet c := ⟨⟨r, rfl⟩, rfl⟩
@[simp] theorem quiet_memWrite (c : Config) (r : TargetReg) (v : Word) :
    (Event.memWrite (r.addr c) v).Quiet c := ⟨⟨r, rfl⟩, rfl⟩
@[simp] theorem quiet_clkResolve_none (c : Config) (name : String) :
    (Event.clkResolve name none).Quiet c := ⟨trivial, rfl⟩
@[simp] theorem quiet_clkGetRate (c : Config) (h : Handle) (a : Word) :
    (Event.clkGetRate h a).Quiet c := ⟨trivial, rfl⟩
@[simp] theorem quiet_clkSetRate (c : Config) (h : Handle) (hz a : Word) :
    (Event.clkSetRate h hz a).Quiet c := ⟨trivial, rfl⟩
@[simp] theorem quiet_clkEnable (c : Config) (h : Handle) : (Event.clkEnable h).Quiet c := ⟨trivial, rfl⟩
@[simp] theorem quiet_clkDisable (c : Config) (h : Handle) : (Event.clkDisable h).Quiet c := ⟨trivial, rfl⟩

/-- The trace part is kept when the events appended are at target registers, give every handle that is new in
a cache, and resolve a clock as often as a cache is filled. -/
theorem traceInv_of_events {s t : State} {events : List Event} (h : s.TraceInv) (hcfg : t.cfg = s.cfg)
    (htr : t.trace = s.trace ++ events) (hl : ∀ e ∈ events, e.AddrLegal s.cfg)
    (hp : ∀ k, t.pwmClk = .resolved k →
      s.pwmClk = .resolved k ∨ .clkResolve s.cfg.pwmParentClkName (some k) ∈ events)
    (hm : ∀ k, t.mmcClk = .resolved k →
      s.mmcClk = .resolved k ∨ .clkResolve (mmcClkName s.cfg) (some k) ∈ events)
    (hn : t.pwmClk.count + t.mmcClk.count =
      s.pwmClk.count + s.mmcClk.count + events.countP Event.isResolution) : t.TraceInv := by
  obtain ⟨hlegal, ⟨hpwm, hmmc⟩, hone⟩ := h
  refine ⟨?_, ⟨?_, ?_⟩, ?_⟩
  · rw [State.TraceLegal, hcfg, htr]
    exact List.forall_mem_append.2 ⟨hlegal, hl⟩
  · rw [hcfg, htr]
    exact fun k hk => List.mem_append.2 ((hp k hk).imp_left (hpwm k))
  · rw [hcfg, htr]
    exact fun k hk => List.mem_append.2 ((hm k hk).imp_left (hmmc k))
  · rw [State.OneResolutionEach, htr, List.countP_append, hn, hone]

/-- Quiet events keep the trace part where both caches stay. -/
theorem traceInv_append {s t : State} {events : List Event} (h : s.TraceInv)
    (he : ∀ e ∈ events, e.Quiet s.cfg) (hcfg : t.cfg = s.cfg) (hp : t.pwmClk = s.pwmClk)
    (hm : t.mmcClk = s.mmcClk) (htr : t.trace = s.trace ++ events) : t.TraceInv := by
  have hnone : events.countP Event.isResolution = 0 := by
    rw [List.countP_eq_zero]
    intro e hmem
    obtain ⟨_, hq⟩ := he e hmem
    simp [hq]
  refine traceInv_of_events h hcfg htr (fun e hmem => (he e hmem).left) ?_ ?_ ?_
  · exact fun k hk => .inl (hp ▸ hk)
  · exact fun k hk => .inl (hm ▸ hk)
  · rw [hp, hm, hnone, Nat.add_zero]

/-- Resolving the PWM parent clock keeps the trace part: an empty cache is filled by the event that gives its
handle (40_pwm.md R86). -/
theorem traceInv_resolvePwm {s : State} {k : Handle} (h : s.TraceInv) (hk : s.PwmClockIs k) :
    State.TraceInv { s with
      pwmClk := .resolved k
      trace := s.trace ++ resolveEvents s.pwmClk s.cfg.pwmParentClkName s.collab } := by
  rcases hk with hk | ⟨hu, hr⟩
  · exact traceInv_append h (events := []) nofun rfl hk.symm rfl (by rw [hk]; rfl)
  · refine traceInv_of_events h rfl rfl ?_ ?_ (fun _ => .inl) ?_
    · simp [hu, resolveEvents, Event.AddrLegal]
    · rintro _ ⟨⟩
      exact .inr (by simp [hu, hr, resolveEvents])
    · simp [hu, hr, resolveEvents, ClkCache.count, Event.isResolution, Nat.add_comm]

/-- The same for the MMC clock (41_mmc.md R120). -/
theorem traceInv_resolveMmc {s : State} {k : Handle} (h : s.TraceInv) (hk : s.MmcClockIs k) :
    State.TraceInv { s with
      mmcClk := .resolved k
      trace := s.trace ++ resolveEvents s.mmcClk (mmcClkName s.cfg) s.collab } := by
  rcases hk with hk | ⟨hu, hr⟩
  · exact traceInv_append h (events := []) nofun rfl rfl hk.symm (by rw [hk]; rfl)
  · refine traceInv_of_events h rfl rfl ?_ (fun _ => .inl) ?_ ?_
    · simp [hu, resolveEvents, Event.AddrLegal]
    · rintro _ ⟨⟩
      exact .inr (by simp [hu, hr, resolveEvents])
    · simp [hu, hr, resolveEvents, ClkCache.count, Event.isResolution]

/-- The accesses of a derivation to `tcfg0` and `tcfg1` are quiet. -/
theorem readbackEvents_quiet (c : Config) : ∀ e ∈ readbackEvents c, e.Quiet c := by
  unfold readbackEvents
  cases c.tinPolicy <;> simp

/-- A derivation keeps the trace part: it resolves the clock, then makes quiet events. -/
theorem traceInv_afterDerive {s : State} {k : Handle} (h : s.TraceInv) (hk : s.PwmClockIs k) :
    (s.afterDerive k).TraceInv := by
  refine traceInv_append (traceInv_resolvePwm h hk)
    (events := .clkGetRate k s.pwmRate :: readbackEvents s.cfg) ?_ rfl rfl rfl ?_
  · exact List.forall_mem_cons.2 ⟨quiet_clkGetRate _ _ _, readbackEvents_quiet s.cfg⟩
  · simp [State.afterDerive, State.deriveEvents]

/-- A failed resolution keeps the trace part. -/
theorem traceInv_afterNotFound {s : State} (h : s.TraceInv) (name : String) :
    (s.afterNotFound name).TraceInv :=
  traceInv_append h (events := [.clkResolve name none]) (by simp) rfl rfl rfl rfl

/-- Every command keeps the trace part. -/
theorem exec_traceInv {i : Instr} {s t : State} (h : exec i s = .next t) (hs : s.TraceInv) : t.TraceInv := by
  cases i with
  | pwmDeriveTin ch =>
    rcases execPwmDeriveTin_forms h with ⟨_, rfl⟩ | ⟨_, _, ⟨_, rfl⟩ | ⟨k, hk, rfl⟩⟩
    · exact hs
    · exact traceInv_afterNotFound hs _
    · exact traceInv_afterDerive hs hk
  | pwmSetConfig ch =>
    rcases execPwmSetConfig_forms h with ⟨_, rfl⟩ | ⟨c, _, ⟨_, rfl⟩ | ⟨_, _, rfl⟩ |
      ⟨_, _, ⟨_, rfl⟩ | ⟨k, hk, ⟨_, _, rfl⟩ | ⟨tcnt, tcmp, _, rfl⟩⟩⟩⟩
    · exact hs
    · exact hs
    · exact hs
    · exact traceInv_afterNotFound hs _
    · exact traceInv_afterDerive hs hk
    · exact traceInv_append (traceInv_afterDerive hs hk) (events := s.configEvents c tcnt tcmp)
        (by simp [State.configEvents, State.afterDerive]) rfl rfl rfl rfl
  | pwmSetEnable ch enable =>
    rcases execPwmSetEnable_forms h with ⟨_, rfl⟩ | ⟨c, _, rfl⟩
    · exact hs
    · exact traceInv_append hs (by simp) rfl rfl rfl rfl
  | mmcGetBaseClock =>
    rcases execMmcGetBaseClock_forms h with ⟨_, rfl⟩ | ⟨k, hk, rfl⟩
    · exact traceInv_afterNotFound hs _
    · exact traceInv_append (traceInv_resolveMmc hs hk) (by simp) rfl rfl rfl rfl
  | mmcSetClock =>
    rcases execMmcSetClock_forms h with ⟨_, rfl⟩ | ⟨k, hk, rfl⟩
    · exact traceInv_afterNotFound hs _
    · exact traceInv_append (traceInv_resolveMmc hs hk) (by simp) rfl rfl rfl rfl
  | mmcProgramDelay =>
    obtain rfl := execMmcProgramDelay_forms h
    exact traceInv_append hs (by simp) rfl rfl rfl rfl
  | mmcSelectClockMode boosted =>
    obtain rfl := execMmcSelectClockMode_forms h
    exact traceInv_append hs (by simp) rfl rfl rfl rfl

/-- A command of an idle block keeps the invariant. -/
theorem exec_inv {i : Instr} {s t : State} (h : exec i s = .next t) (hi : s.control = .idle) (hs : s.Inv) :
    t.Inv := by
  obtain ⟨hok, hstatus, htrace⟩ := hs
  obtain ⟨hcfg, _⟩ := exec_keeps h
  exact ⟨hcfg ▸ hok, exec_statusLegal h hstatus hi, exec_traceInv h htrace⟩

/-- A reset that samples an allowed configuration establishes the invariant (70_reset_and_hazards.md R170). -/
theorem resetBlock_inv {c : Config} (hc : c.Ok) (s : State) : (resetBlock c s).Inv :=
  ⟨hc, .inl ⟨rfl, List.mem_cons_self⟩, nofun, ⟨nofun, nofun⟩, rfl⟩

/-- A step whose next event is a reset samples an allowed configuration. -/
theorem step_reset_or_noReset {s t : State} (h : step s = .next t) :
    s.NoResetNext ∨ ∃ c p, c.Ok ∧ t = resetBlock c { s with pending := p } := by
  rcases step_cases s with ⟨hp, _⟩ | ⟨e, rest, hp, he⟩
  · exact .inl (by simp [State.NoResetNext, hp])
  · rcases perform_next (he.symm.trans h) with ⟨_, _, rfl, _⟩ | ⟨_, _, _, rfl, _⟩ | ⟨c, _, hok, rfl⟩
    · exact .inl (by simp [State.NoResetNext, hp, HostEvent.isReset])
    · exact .inl (by simp [State.NoResetNext, hp, HostEvent.isReset])
    · exact .inr ⟨c, rest, hok, rfl⟩

/-- Settles O15: a reset establishes the invariant, a command of an idle block keeps it (`exec_inv`), an
illegal word sets code 5, and nothing else touches what the invariant speaks of. -/
theorem stepKeepsTheBlockInvariant : Obligations.StepKeepsTheBlockInvariant := by
  intro s t hs h
  rcases step_reset_or_noReset h with hn | ⟨c, p, hc, rfl⟩
  · rcases step_noReset_cases hn h with ⟨_, _, rfl⟩ | ⟨_, _, _, _, rfl, _⟩ | ⟨i, p, hi, he⟩ | ⟨p, hi, rfl⟩
    · exact hs
    · exact hs
    · exact exec_inv he hi hs
    · obtain ⟨hok, hstatus, htrace⟩ := hs
      exact ⟨hok, statusLegal_of_setCode hstatus hi rfl (by decide) rfl, htrace⟩
  · exact resetBlock_inv hc _

end Sys2Proof.Machine
end

section
/-! Which host accesses the block takes, and how it refuses the others (20_memory.md R53, R54, R56). -/

namespace Sys2Proof.Machine

/-- An aligned 32-bit access at one of the seven offsets reaches the register there, at any port base. -/
theorem portAccess_at {c : Config} {addr : Word} {k : Nat} (ha : addr.toNat % 4 = 0) (hk : k < 7)
    (hoff : addr = c.portBase + BitVec.ofNat 32 (4 * k)) : portAccess c addr 32 = .ok (portRegOf k) := by
  have hreg : portRegAt (addr - c.portBase) = some (portRegOf k) :=
    (portRegAt_eq_some _ _).2 ⟨k, hk, by rw [hoff, BitVec.add_comm, BitVec.add_sub_cancel], rfl⟩
  simp [portAccess, ha, hreg]

/-- The accesses that reach a register are those of 32 bits, aligned, at one of the seven offsets. -/
theorem exists_portAccess_ok_iff (c : Config) (addr : Word) (bits : Nat) :
    (∃ r, portAccess c addr bits = .ok r) ↔
      bits = 32 ∧ addr.toNat % 4 = 0 ∧ ∃ k < 7, addr = c.portBase + BitVec.ofNat 32 (4 * k) := by
  constructor
  · rintro ⟨r, hr⟩
    obtain ⟨hbits, ha, k, hk, hoff, _⟩ := portAccess_ok hr
    exact ⟨hbits, ha, k, hk, hoff⟩
  · rintro ⟨rfl, ha, k, hk, hoff⟩
    exact ⟨_, portAccess_at ha hk hoff⟩

/-- An access of another width (R54). -/
theorem portAccess_width (c : Config) (addr : Word) {bits : Nat} (hbits : bits ≠ 32) :
    portAccess c addr bits = .error .hostAccessWidth :=
  if_pos hbits

/-- A misaligned 32-bit access (R56). -/
theorem portAccess_misaligned (c : Config) {addr : Word} (ha : addr.toNat % 4 ≠ 0) :
    portAccess c addr 32 = .error .hostAccessMisaligned := by
  simp [portAccess, ha]

/-- An aligned 32-bit access at none of the seven offsets (R53). -/
theorem portAccess_noRegister {c : Config} {addr : Word} (ha : addr.toNat % 4 = 0)
    (hoff : ∀ k < 7, addr ≠ c.portBase + BitVec.ofNat 32 (4 * k)) :
    portAccess c addr 32 = .error .hostAccessNoRegister := by
  cases hreg : portRegAt (addr - c.portBase) with
  | none => simp [portAccess, ha, hreg]
  | some r =>
    have hok : portAccess c addr 32 = .ok r := by simp [portAccess, ha, hreg]
    obtain ⟨_, _, k, hk, hk', _⟩ := portAccess_ok hok
    exact absurd hk' (hoff k hk)

/-- A step whose next event is a host access that reaches no register is refused, read or write alike. -/
theorem step_of_portAccess_error {s : State} {rest : List HostEvent} {addr : Word} {bits : Nat} {v : Word}
    {why : Refusal} (hp : s.pending = .read addr bits :: rest ∨ s.pending = .write addr bits v :: rest)
    (h : portAccess s.cfg addr bits = .error why) : step s = .refused why := by
  rcases hp with hp | hp <;> simp only [step_pending hp, perform, h]

/-- Settles O10: each clause is one branch of `portAccess`. -/
theorem disallowedHostAccessIsRefused : Obligations.DisallowedHostAccessIsRefused := by
  intro s rest addr bits v hp
  refine ⟨fun hbits => ?_, fun hbits ha => ?_, fun hbits ha hoff => ?_⟩
  · exact step_of_portAccess_error hp (portAccess_width _ _ hbits)
  · subst hbits
    exact step_of_portAccess_error hp (portAccess_misaligned _ ha)
  · subst hbits
    exact step_of_portAccess_error hp (portAccess_noRegister ha hoff)

/-- An event is performed exactly if it is allowed. -/
theorem perform_answers_next_iff (e : HostEvent) (s : State) :
    (∃ t, perform e s = .next t) ↔ e.Allowed s.cfg := by
  cases e with
  | read addr bits =>
    refine Iff.trans ?_ (exists_portAccess_ok_iff s.cfg addr bits)
    cases h : portAccess s.cfg addr bits <;> simp [perform, h]
  | write addr bits v =>
    refine Iff.trans ?_ (exists_portAccess_ok_iff s.cfg addr bits)
    cases h : portAccess s.cfg addr bits <;> simp [perform, h, portWrite_answers_next]
  | reset c =>
    show _ ↔ c.Ok
    by_cases hc : c.Ok
    · exact iff_of_true ⟨_, if_pos hc⟩ hc
    · exact iff_of_false (fun ⟨t, ht⟩ => by rw [perform, if_neg hc] at ht; cases ht) hc

/-- Settles O11: with nothing pending a step waits, else it performs the next event. -/
theorem stepAnswersExactlyTheAllowedEvents : Obligations.StepAnswersExactlyTheAllowedEvents := by
  intro s
  rcases step_cases s with ⟨hp, hs⟩ | ⟨e, rest, hp, hs⟩
  · exact iff_of_true ⟨s, hs⟩ (by simp [hp])
  · rw [hs, perform_answers_next_iff, hp]
    simp

end Sys2Proof.Machine
end

section
/-! Which target registers a command leaves alone (20_memory.md R50, R52). -/

namespace Sys2Proof.Machine

/-- A store leaves every other register. -/
theorem reg_setReg_ne {r r' : TargetReg} (h : r' ≠ r) (v : Word) (s : State) :
    (s.setReg r v).reg r' = s.reg r' := by
  rw [reg_setReg, if_neg h]

/-- A derivation leaves every register but `tcfg0` and `tcfg1` (40_pwm.md R87, R88). -/
theorem reg_afterDerive {r : TargetReg} (h0 : r ≠ .tcfg0) (h1 : r ≠ .tcfg1) (s : State) (h : Handle) :
    (s.afterDerive h).reg r = s.reg r := by
  cases r with
  | tcfg0 => exact absurd rfl h0
  | tcfg1 => exact absurd rfl h1
  | tcon | tcntb _ | tcmpb _ | clksel | clkdly => rfl

/-- Settles O42: each next state a command can answer is, in its registers, the old one with stores into
registers that the command may write. -/
theorem commandsWriteOnlyTheirRegisters : Obligations.CommandsWriteOnlyTheirRegisters := by
  intro i s t r h hr
  cases i with
  | pwmDeriveTin ch =>
    obtain ⟨h0, h1⟩ := not_or.1 hr
    rcases execPwmDeriveTin_forms h with ⟨_, rfl⟩ | ⟨_, _, ⟨_, rfl⟩ | ⟨k, _, rfl⟩⟩
    · rfl
    · rfl
    · exact reg_afterDerive h0 h1 s k
  | pwmSetConfig ch =>
    simp only [MayWrite, not_or, not_exists, not_and] at hr
    obtain ⟨h0, h1, htcon, hch⟩ := hr
    rcases execPwmSetConfig_forms h with ⟨_, rfl⟩ | ⟨c, hc, ⟨_, rfl⟩ | ⟨_, _, rfl⟩ |
      ⟨_, _, ⟨_, rfl⟩ | ⟨k, _, ⟨_, _, rfl⟩ | ⟨tcnt, tcmp, _, rfl⟩⟩⟩⟩
    · rfl
    · rfl
    · rfl
    · rfl
    · exact reg_afterDerive h0 h1 s k
    · obtain ⟨hcnt, hcmp⟩ := hch c hc
      calc _ = ((((s.afterDerive k).setReg (.tcntb c) tcnt).setReg (.tcmpb c) tcmp).setReg .tcon
                (disarmedWord s.cfg c (armedWord s.cfg c s.tcon))).reg r := rfl
        _ = s.reg r := by
          rw [reg_setReg_ne htcon, reg_setReg_ne hcmp, reg_setReg_ne hcnt, reg_afterDerive h0 h1]
  | pwmSetEnable ch enable =>
    rcases execPwmSetEnable_forms h with ⟨_, rfl⟩ | ⟨c, _, rfl⟩
    · rfl
    · exact reg_setReg_ne hr (enableWord s.cfg c enable s.tcon) s
  | mmcGetBaseClock =>
    rcases execMmcGetBaseClock_forms h with ⟨_, rfl⟩ | ⟨_, _, rfl⟩ <;> rfl
  | mmcSetClock =>
    rcases execMmcSetClock_forms h with ⟨_, rfl⟩ | ⟨_, _, rfl⟩ <;> rfl
  | mmcProgramDelay =>
    obtain rfl := execMmcProgramDelay_forms h
    exact reg_setReg_ne hr (packDelay s.cfg (s.operand 0) (s.operand 1) (s.operand 2) (s.operand 3)) s
  | mmcSelectClockMode boosted =>
    obtain rfl := execMmcSelectClockMode_forms h
    exact reg_setReg_ne hr (clkSelWord boosted) s

end Sys2Proof.Machine
end

section
/-! The bytes of a register (20_memory.md R55). -/

namespace Sys2Proof.Machine

/-- Bit `j` of byte `k`. -/
theorem byteOf_bit (w : Word) (k : Fin 4) {j : Nat} (hj : j < 8) :
    (byteOf w k).getLsbD j = w.getLsbD (8 * k.val + j) := by
  simp [byteOf, hj]

/-- Settles O48: neighbouring bit ranges join, and the four together are the whole word. -/
theorem registerBytesAreLittleEndian : Obligations.RegisterBytesAreLittleEndian := by
  refine fun w => ⟨fun k j hj => byteOf_bit w k hj, ?_⟩
  have h32 : byteOf w 3 ++ byteOf w 2 = w.extractLsb' 16 16 :=
    BitVec.extractLsb'_append_extractLsb'_eq_extractLsb' rfl
  have h321 : w.extractLsb' 16 16 ++ byteOf w 1 = w.extractLsb' 8 24 :=
    BitVec.extractLsb'_append_extractLsb'_eq_extractLsb' rfl
  have h3210 : w.extractLsb' 8 24 ++ byteOf w 0 = w.extractLsb' 0 32 :=
    BitVec.extractLsb'_append_extractLsb'_eq_extractLsb' rfl
  rw [h32, h321, h3210, BitVec.extractLsb'_eq_self]

end Sys2Proof.Machine
end

section
/-! The command word as its four fields (30_encoding.md R65): the fields as numbers, the fields of an encoded
command, and what the decoder reads from the fields. -/

namespace Sys2Proof

open Machine

theorem opField_eq (w : Word) : opField w = w.toNat % 16 := by
  simp [opField]

theorem chField_eq (w : Word) : chField w = w.toNat / 16 % 16 := by
  simp [chField, Nat.shiftRight_eq_div_pow]

theorem flagField_toNat (w : Word) : (flagField w).toNat = w.toNat / 256 % 2 := by
  rw [flagField, BitVec.getLsbD, Nat.toNat_testBit]

theorem rsvField_eq (w : Word) : rsvField w = w.toNat / 512 := by
  have := w.isLt
  simp [rsvField, Nat.shiftRight_eq_div_pow]
  omega

/-- A word is the sum of its fields, each at its place. -/
theorem toNat_eq_fields (w : Word) :
    w.toNat = opField w + 16 * chField w + 256 * (flagField w).toNat + 512 * rsvField w := by
  rw [opField_eq, chField_eq, flagField_toNat, rsvField_eq]
  omega

theorem opField_lt (w : Word) : opField w < 16 := (w.extractLsb' 0 4).isLt

theorem chField_lt (w : Word) : chField w < 16 := (w.extractLsb' 4 4).isLt

/-- A word is determined by its fields. -/
theorem word_eq_iff_fields (w v : Word) :
    w = v ↔ rsvField w = rsvField v ∧ opField w = opField v ∧ chField w = chField v ∧
      flagField w = flagField v := by
  constructor
  · rintro rfl
    exact ⟨rfl, rfl, rfl, rfl⟩
  · rintro ⟨hr, ho, hc, hf⟩
    apply BitVec.eq_of_toNat_eq
    rw [toNat_eq_fields w, toNat_eq_fields v, hr, ho, hc, hf]

/-- The number that a command word is. -/
theorem commandWord_toNat {op ch : Nat} (hop : op < 16) (hch : ch < 16) (f : Bool) :
    (commandWord op ch f).toNat = op + 16 * ch + 256 * f.toNat := by
  have hf := f.toNat_lt
  have hlow : 2 ^ 4 * ch + op = 2 ^ 4 * ch ||| op := Nat.two_pow_add_eq_or_of_lt hop ch
  have hhigh : 2 ^ 8 * f.toNat + (2 ^ 4 * ch + op) = 2 ^ 8 * f.toNat ||| (2 ^ 4 * ch + op) :=
    Nat.two_pow_add_eq_or_of_lt (by omega) _
  simp only [commandWord, BitVec.toNat_or, BitVec.toNat_shiftLeft, BitVec.toNat_ofNat, Nat.shiftLeft_eq]
  rw [Nat.mod_eq_of_lt (by omega : op < 2 ^ 32), Nat.mod_eq_of_lt (by omega : ch < 2 ^ 32),
    Nat.mod_eq_of_lt (by omega : f.toNat < 2 ^ 32), Nat.mod_eq_of_lt (by omega : ch * 2 ^ 4 < 2 ^ 32),
    Nat.mod_eq_of_lt (by omega : f.toNat * 2 ^ 8 < 2 ^ 32), Nat.mul_comm ch, Nat.mul_comm f.toNat,
    Nat.or_comm op, ← hlow, Nat.or_comm, ← hhigh]
  omega

/-- The fields of a command word are those it was made of, and `RSV` is 0 (R65). -/
theorem commandWord_fields {op ch : Nat} (hop : op < 16) (hch : ch < 16) (f : Bool) :
    rsvField (commandWord op ch f) = 0 ∧ opField (commandWord op ch f) = op ∧
      chField (commandWord op ch f) = ch ∧ flagField (commandWord op ch f) = f := by
  have hw := commandWord_toNat hop hch f
  have hf := f.toNat_lt
  refine ⟨?_, ?_, ?_, ?_⟩
  · rw [rsvField_eq]; omega
  · rw [opField_eq]; omega
  · rw [chField_eq]; omega
  · have ht : (flagField (commandWord op ch f)).toNat = f.toNat := by rw [flagField_toNat]; omega
    rw [← Bool.ofNat_toNat (flagField _), ht, Bool.ofNat_toNat]

/-- A word without reserved bits is the command word of its fields. -/
theorem commandWord_of_fields {w : Word} (hr : rsvField w = 0) :
    commandWord (opField w) (chField w) (flagField w) = w := by
  rw [word_eq_iff_fields, hr]
  exact commandWord_fields (opField_lt w) (chField_lt w) _

/-- The field `OP` of a command (R67). -/
def Instr.op : Instr → Nat
  | .pwmDeriveTin _ => 0x1
  | .pwmSetConfig _ => 0x2
  | .pwmSetEnable _ _ => 0x3
  | .mmcGetBaseClock => 0x8
  | .mmcSetClock => 0x9
  | .mmcProgramDelay => 0xA
  | .mmcSelectClockMode _ => 0xB

/-- The field `CH` of a command: 0 where it names no channel (R67). -/
def Instr.ch (i : Instr) : Nat := (channelOf i).getD 0

/-- The field `F` of a command: clear where it takes no flag (R67). -/
def Instr.flag : Instr → Bool
  | .pwmSetEnable _ enable => enable
  | .mmcSelectClockMode boosted => boosted
  | _ => false

theorem Instr.op_lt (i : Instr) : i.op < 16 := by
  cases i <;> simp [Instr.op]

theorem Instr.wellFormed_iff (i : Instr) : i.WellFormed ↔ i.ch < 16 := by
  cases i <;> simp [Instr.WellFormed, Instr.wellFormed, Instr.ch, channelOf]

theorem encode_eq_commandWord (i : Instr) : encode i = commandWord i.op i.ch i.flag := by
  cases i <;> rfl

theorem requireFlagClear_eq_ok {f : Bool} {i j : Instr} :
    requireFlagClear f i = .ok j ↔ f = false ∧ i = j := by
  cases f <;> simp [requireFlagClear]

theorem requireChannelZero_eq_ok {ch : Nat} {d : Except IllegalWord Instr} {j : Instr} :
    requireChannelZero ch d = .ok j ↔ ch = 0 ∧ d = .ok j := by
  by_cases h : ch = 0 <;> simp [requireChannelZero, h]

/-- The decoder answers a command exactly if the fields of the word are the command's and `RSV` is 0 (R71). -/
theorem decode_eq_ok_iff (w : Word) (i : Instr) :
    decode w = .ok i ↔
      rsvField w = 0 ∧ opField w = i.op ∧ chField w = i.ch ∧ flagField w = i.flag := by
  by_cases hr : rsvField w = 0
  · constructor
    · intro h
      simp only [decode, hr, ne_eq, not_true_eq_false, if_false] at h
      split at h <;>
        simp only [requireFlagClear_eq_ok, requireChannelZero_eq_ok, Except.ok.injEq, reduceCtorEq] at h
      · obtain ⟨hf, rfl⟩ := h
        exact ⟨hr, ‹_›, rfl, hf⟩
      · obtain ⟨hf, rfl⟩ := h
        exact ⟨hr, ‹_›, rfl, hf⟩
      · obtain rfl := h
        exact ⟨hr, ‹_›, rfl, rfl⟩
      · obtain ⟨hc, hf, rfl⟩ := h
        exact ⟨hr, ‹_›, hc, hf⟩
      · obtain ⟨hc, hf, rfl⟩ := h
        exact ⟨hr, ‹_›, hc, hf⟩
      · obtain ⟨hc, hf, rfl⟩ := h
        exact ⟨hr, ‹_›, hc, hf⟩
      · obtain ⟨hc, rfl⟩ := h
        exact ⟨hr, ‹_›, hc, rfl⟩
    · rintro ⟨_, ho, hc, hf⟩
      cases i <;>
        simp only [Instr.op, Instr.ch, Instr.flag, channelOf, Option.getD] at ho hc hf <;>
        simp [decode, hr, ho, hc, hf, requireFlagClear, requireChannelZero]
  · simp [decode, hr]

/-- Settles O1: the fields of the encoded word are the command's fields, which is what the decoder asks. -/
theorem decodeEncodeRoundTrip : Obligations.DecodeEncodeRoundTrip := by
  intro i hi
  rw [decode_eq_ok_iff, encode_eq_commandWord]
  exact commandWord_fields i.op_lt (i.wellFormed_iff.1 hi) i.flag

/-- Settles O2: the decoded command has the word's fields, so its word is the word of these fields. -/
theorem encodeDecodeRoundTrip : Obligations.EncodeDecodeRoundTrip := by
  intro w i h
  obtain ⟨hr, ho, hc, hf⟩ := (decode_eq_ok_iff w i).1 h
  refine ⟨i.wellFormed_iff.2 (hc ▸ chField_lt w), ?_⟩
  rw [encode_eq_commandWord, ← ho, ← hc, ← hf, commandWord_of_fields hr]

/-- Settles O5: each word is evaluated by the decoder. -/
theorem sampleWordsDecode : Obligations.SampleWordsDecode := by
  unfold Obligations.SampleWordsDecode
  decide

end Sys2Proof
end

section
/-! The match and mask table of 30_encoding.md R68 in terms of the fields, and the illegal words of R69. -/

namespace Sys2Proof

open Machine

theorem opField_and (w m : Word) : opField (w &&& m) = opField w &&& opField m := by
  simp only [opField, BitVec.extractLsb'_and, BitVec.toNat_and]

theorem chField_and (w m : Word) : chField (w &&& m) = chField w &&& chField m := by
  simp only [chField, BitVec.extractLsb'_and, BitVec.toNat_and]

theorem rsvField_and (w m : Word) : rsvField (w &&& m) = rsvField w &&& rsvField m := by
  simp only [rsvField, BitVec.extractLsb'_and, BitVec.toNat_and]

theorem flagField_and (w m : Word) : flagField (w &&& m) = (flagField w && flagField m) :=
  BitVec.getLsbD_and

/-- A row selects the words whose masked fields are the fields of its value. -/
theorem OpcodeRow.selects_iff_fields (row : OpcodeRow) (w : Word) :
    row.Selects w ↔
      rsvField w &&& rsvField row.mask = rsvField row.value ∧
      opField w &&& opField row.mask = opField row.value ∧
      chField w &&& chField row.mask = chField row.value ∧
      (flagField w && flagField row.mask) = flagField row.value := by
  rw [OpcodeRow.Selects, word_eq_iff_fields, rsvField_and, opField_and, chField_and, flagField_and]

/-- An operation whose word may have `F` set (R67). -/
def Instr.takesFlag : Instr → Bool
  | .pwmSetEnable _ _ => true
  | .mmcSelectClockMode _ => true
  | _ => false

/-- The mask of a command's row leaves out `CH` for a PWM operation and `F` for one that takes a flag. -/
theorem Instr.row_mask_fields (i : Instr) :
    rsvField i.row.mask = 2 ^ 23 - 1 ∧ opField i.row.mask = 2 ^ 4 - 1 ∧
      chField i.row.mask = (if isPwm i then 0 else 2 ^ 4 - 1) ∧
      flagField i.row.mask = !i.takesFlag := by
  cases i <;>
    simp [Instr.row, rsvField_eq, opField_eq, chField_eq, flagField, Instr.takesFlag, isPwm, channelOf]

/-- The value of a command's row is its operation alone. -/
theorem Instr.row_value_fields (i : Instr) :
    rsvField i.row.value = 0 ∧ opField i.row.value = i.op ∧ chField i.row.value = 0 ∧
      flagField i.row.value = false := by
  cases i <;> simp [Instr.row, rsvField_eq, opField_eq, chField_eq, flagField, Instr.op]

/-- Which words a command's row selects (R68). -/
theorem Instr.row_selects_iff (i : Instr) (w : Word) :
    i.row.Selects w ↔
      rsvField w = 0 ∧ opField w = i.op ∧ (isPwm i = false → chField w = 0) ∧
        (i.takesFlag = false → flagField w = false) := by
  obtain ⟨hmr, hmo, hmc, hmf⟩ := i.row_mask_fields
  obtain ⟨hvr, hvo, hvc, hvf⟩ := i.row_value_fields
  have hrsv : rsvField w &&& (2 ^ 23 - 1) = rsvField w :=
    Nat.and_two_pow_sub_one_of_lt_two_pow (w.extractLsb' 9 23).isLt
  have hop : opField w &&& (2 ^ 4 - 1) = opField w := Nat.and_two_pow_sub_one_of_lt_two_pow (opField_lt w)
  have hch : chField w &&& 15 = chField w := Nat.and_two_pow_sub_one_of_lt_two_pow (n := 4) (chField_lt w)
  rw [OpcodeRow.selects_iff_fields, hmr, hmo, hmc, hmf, hvr, hvo, hvc, hvf, hrsv, hop]
  cases isPwm i <;> cases i.takesFlag <;> simp [hch]

/-- A word is selected by the row of the command it decodes to. -/
theorem row_selects_of_decode {w : Word} {i : Instr} (h : decode w = .ok i) : i.row.Selects w := by
  obtain ⟨hr, ho, hc, hf⟩ := (decode_eq_ok_iff w i).1 h
  rw [i.row_selects_iff, hc, hf]
  exact ⟨hr, ho, by cases i <;> simp [isPwm, Instr.ch, channelOf],
    by cases i <;> simp [Instr.takesFlag, Instr.flag]⟩

/-- A word that a command's row selects decodes to a command of that row, with the word's own fields. -/
theorem decode_of_row_selects {w : Word} {i : Instr} (h : i.row.Selects w) :
    ∃ j, decode w = .ok j ∧ j.row = i.row := by
  obtain ⟨hr, ho, hc, hf⟩ := (i.row_selects_iff w).1 h
  have decodes {j : Instr} (hop : opField w = j.op) (hch : chField w = j.ch)
      (hflag : flagField w = j.flag) : decode w = .ok j :=
    (decode_eq_ok_iff w j).2 ⟨hr, hop, hch, hflag⟩
  cases i with
  | pwmDeriveTin _ => exact ⟨.pwmDeriveTin (chField w), decodes ho rfl (hf rfl), rfl⟩
  | pwmSetConfig _ => exact ⟨.pwmSetConfig (chField w), decodes ho rfl (hf rfl), rfl⟩
  | pwmSetEnable _ _ => exact ⟨.pwmSetEnable (chField w) (flagField w), decodes ho rfl rfl, rfl⟩
  | mmcGetBaseClock => exact ⟨.mmcGetBaseClock, decodes ho (hc rfl) (hf rfl), rfl⟩
  | mmcSetClock => exact ⟨.mmcSetClock, decodes ho (hc rfl) (hf rfl), rfl⟩
  | mmcProgramDelay => exact ⟨.mmcProgramDelay, decodes ho (hc rfl) (hf rfl), rfl⟩
  | mmcSelectClockMode _ => exact ⟨.mmcSelectClockMode (flagField w), decodes ho (hc rfl) rfl, rfl⟩

/-- One command of each operation, in the order of R68. -/
def oneOfEachOperation : List Instr :=
  [.pwmDeriveTin 0, .pwmSetConfig 0, .pwmSetEnable 0 false, .mmcGetBaseClock, .mmcSetClock, .mmcProgramDelay,
    .mmcSelectClockMode false]

/-- The table holds the row of each operation. -/
theorem opcodeTable_eq_map : opcodeTable = oneOfEachOperation.map Instr.row := rfl

theorem selects_iff_decodes {row : OpcodeRow} (hrow : row ∈ opcodeTable) (w : Word) :
    row.Selects w ↔ ∃ i, decode w = .ok i ∧ i.row = row := by
  rw [opcodeTable_eq_map] at hrow
  obtain ⟨i, _, rfl⟩ := List.mem_map.1 hrow
  constructor
  · exact decode_of_row_selects
  · rintro ⟨j, hj, hrow⟩
    exact hrow ▸ row_selects_of_decode hj

/-- Settles O3: selecting a row is decoding to its operation, and a word decodes to one command. -/
theorem decodeAgreesWithMatchMask : Obligations.DecodeAgreesWithMatchMask := by
  refine ⟨fun w row hrow => selects_iff_decodes hrow w, fun w row hrow row' hrow' hs hs' => ?_⟩
  obtain ⟨i, hi, rfl⟩ := (selects_iff_decodes hrow w).1 hs
  obtain ⟨j, hj, rfl⟩ := (selects_iff_decodes hrow' w).1 hs'
  rw [hi] at hj
  cases hj
  rfl

/-- A word that no row selects decodes to no command. -/
theorem decode_error_of_unselected {w : Word} (h : ∀ row ∈ opcodeTable, ¬ row.Selects w) :
    ∃ e, decode w = .error e := by
  cases hd : decode w with
  | error e => exact ⟨e, rfl⟩
  | ok i =>
    have hmem : i.row ∈ opcodeTable := by
      cases i <;> simp [Instr.row, opcodeTable]
    exact absurd (row_selects_of_decode hd) (h _ hmem)

/-- The words that match no row are those of the kinds of R69. -/
theorem unselected_iff_illegalKind (w : Word) :
    (∀ row ∈ opcodeTable, ¬ row.Selects w) ↔
      (opField w ∈ [0x0, 0x4, 0x5, 0x6, 0x7, 0xC, 0xD, 0xE, 0xF] ∨ rsvField w ≠ 0 ∨
        (flagField w = true ∧ opField w ∈ [0x1, 0x2, 0x8, 0x9, 0xA]) ∨
        (chField w ≠ 0 ∧ opField w ∈ [0x8, 0x9, 0xA, 0xB])) := by
  have hop := opField_lt w
  simp only [opcodeTable_eq_map, oneOfEachOperation, List.map_cons, List.map_nil, List.forall_mem_cons]
  simp only [Instr.row_selects_iff, Instr.op, Instr.takesFlag, isPwm, channelOf]
  cases flagField w with
  | true => simp; omega
  | false => simp; omega

/-- Settles O4: `unselected_iff_illegalKind`, and a word that no row selects is an illegal word of O6. -/
theorem illegalWordOnlySetsCode : Obligations.IllegalWordOnlySetsCode := by
  refine ⟨unselected_iff_illegalKind, fun s w rest hok hidle hp hw => ?_⟩
  obtain ⟨e, he⟩ := decode_error_of_unselected hw
  obtain ⟨_, hstep, _⟩ := stepRunsTheWrittenCommand s w rest hok
  exact ⟨setCode s.status 5, hstep e hidle hp he, statusCode_setCode _ _, setCode_bit_high _ _⟩

end Sys2Proof
end

section
/-! The bits of the clock-delay word, field by field (30_encoding.md R77, R78). -/

namespace Sys2Proof.Machine

/-- A word masked to its low `n` bits. -/
theorem maskedField_bit (w : Word) (n k : Nat) :
    (w &&& BitVec.ofNat 32 (2 ^ n - 1)).getLsbD k = if k < n then w.getLsbD k else false := by
  simp only [BitVec.getLsbD_and, BitVec.getLsbD_ofNat, Nat.testBit_two_pow_sub_one]
  by_cases h32 : k < 32
  · simp [h32, Bool.and_comm]
  · simp [h32, BitVec.getLsbD_of_ge w k (by omega)]

/-- The same field placed from bit `lsb` up. -/
theorem placedField_bit (w : Word) {n lsb : Nat} (h : lsb + n ≤ 32) (k : Nat) :
    ((w &&& BitVec.ofNat 32 (2 ^ n - 1)) <<< lsb).getLsbD k =
      if lsb ≤ k ∧ k < lsb + n then w.getLsbD (k - lsb) else false := by
  rw [BitVec.getLsbD_shiftLeft, maskedField_bit]
  by_cases hk : lsb ≤ k ∧ k < lsb + n
  · simp [hk, show k < 32 by omega, show k - lsb < n by omega]
  · by_cases hl : k < lsb
    · simp [hk, hl]
    · simp [hk, show ¬ k - lsb < n by omega]

/-- The bits of the fields that both layouts place alike: 8 bits from 0, 8 bits from 8 and 2 bits from 16. They
do not overlap, so in each range of bits one field answers. -/
theorem commonFields_bit (low high middle : Word) (k : Nat) :
    ((low &&& 0xFF#32) ||| ((high &&& 0x3#32) <<< 16) ||| ((middle &&& 0xFF#32) <<< 8)).getLsbD k =
      if k < 8 then low.getLsbD k
      else if k < 16 then middle.getLsbD (k - 8)
      else if k < 18 then high.getLsbD (k - 16)
      else false := by
  have hlow := maskedField_bit low 8 k
  have hmiddle := placedField_bit middle (n := 8) (lsb := 8) (by decide) k
  have hhigh := placedField_bit high (n := 2) (lsb := 16) (by decide) k
  simp only [Nat.reducePow, Nat.reduceSub, Nat.reduceAdd] at hlow hmiddle hhigh
  simp only [BitVec.getLsbD_or, hlow, hmiddle, hhigh]
  by_cases h8 : k < 8
  · simp (disch := omega) only [if_pos, if_neg, Bool.or_false]
  by_cases h16 : k < 16
  · simp (disch := omega) only [if_pos, if_neg, Bool.or_false, Bool.false_or]
  by_cases h18 : k < 18
  · simp (disch := omega) only [if_pos, if_neg, Bool.or_false, Bool.false_or]
  · simp (disch := omega) only [if_neg, Bool.or_false]

/-- Settles O37: `sample_shift` lies above the other three fields, whose bits are `commonFields_bit`. -/
theorem positionalDelayWordBits : Obligations.PositionalDelayWordBits := by
  rintro c dd ds sd ss k ⟨_, _, ⟨hlo, hhi⟩, _⟩ hc
  have hss := placedField_bit ss (n := 2) (lsb := c.clkdlySsLsb) (by omega) k
  simp only [Nat.reducePow, Nat.reduceSub] at hss
  rw [packDelay, hc, BitVec.getLsbD_or, commonFields_bit, hss]
  by_cases h18 : k < 18
  · have hout : ¬ (c.clkdlySsLsb ≤ k ∧ k < c.clkdlySsLsb + 2) := by omega
    simp only [if_neg hout, Bool.or_false]
  · simp (disch := omega) only [if_neg, Bool.false_or]

/-- Settles O38: the word is its three fields, and `sample_delay` is none of them. -/
theorem sourceLiteralDelayWordBits : Obligations.SourceLiteralDelayWordBits := by
  intro c dd ds sd ss k hc
  rw [packDelay, hc]
  exact commonFields_bit dd ss ds k

/-- The two clock-select words (30_encoding.md R79). -/
theorem clkSelWord_eq (boosted : Bool) :
    clkSelWord boosted = if boosted then 0x01000000#32 else 0x03000000#32 := by
  cases boosted <;> decide

/-- Settles O39: `execMmcSelectClockMode_eq` with the word written out. -/
theorem mmcSelectClockModeMeaning : Obligations.MmcSelectClockModeMeaning := by
  rintro s boosted w rfl
  rw [← clkSelWord_eq]
  exact execMmcSelectClockMode_eq boosted s

end Sys2Proof.Machine
end

section
/-! The lines of the assembler: their words (30_encoding.md R73), and the run of the host accesses a command
line stands for (R72). -/

namespace Sys2Proof.Machine

/-- An accepted line assembles to its host accesses. -/
theorem assemble_of_wellFormed (c : Config) {l : AsmLine} (h : l.wellFormed = true) :
    assemble c l = some (l.events c) := if_pos h

/-- The channel field apart from the rest of the word. -/
theorem commandWord_eq_or_channel (op ch : Nat) (f : Bool) :
    commandWord op ch f = commandWord op 0 f ||| BitVec.ofNat 32 ch <<< 4 := by
  simp only [commandWord, BitVec.zero_shiftLeft, BitVec.or_zero]
  rw [BitVec.or_assoc, BitVec.or_comm (BitVec.ofNat 32 ch <<< 4), ← BitVec.or_assoc]

/-- Settles O49: a pseudo-instruction and its command have the same accesses, one write of a word whose
channel is apart. -/
theorem pseudoInstructionsAssembleToTheirCommands :
    Obligations.PseudoInstructionsAssembleToTheirCommands := by
  intro c ch hch
  have henable : assemble c (.enable ch) = some [.write c.portBase 32 (commandWord 0x3 ch true)] :=
    assemble_of_wellFormed c (decide_eq_true hch)
  have hdisable : assemble c (.disable ch) = some [.write c.portBase 32 (commandWord 0x3 ch false)] :=
    assemble_of_wellFormed c (decide_eq_true hch)
  have hset (e : Nat) (he : e ≤ 1) : assemble c (.setEnable ch e) =
      some [.write c.portBase 32 (commandWord 0x3 ch (e = 1))] :=
    assemble_of_wellFormed c (by simp [AsmLine.wellFormed, hch, he])
  refine ⟨henable.trans (hset 1 (by decide)).symm, ?_, hdisable.trans (hset 0 (by decide)).symm, ?_,
    rfl, rfl, rfl, rfl⟩
  · rw [henable, commandWord_eq_or_channel]
    rfl
  · rw [hdisable, commandWord_eq_or_channel]
    rfl

/-- The operands of a command stored in consecutive `ARG` registers from `ARG[i]` up; there are four. -/
def storeOperands (arg : Vector Word 4) (i : Nat) : List Nat → Vector Word 4
  | [] => arg
  | v :: rest =>
    storeOperands (if h : i < 4 then arg.set i (BitVec.ofNat 32 v) h else arg) (i + 1) rest

/-- A run of an idle block over the `CMD` write of a command. -/
theorem run_cmdWrite {s : State} (hb : s.cfg.portBase.toNat % 4 = 0) (hc : s.control = .idle) {i : Instr}
    (hi : i.WellFormed) :
    core.run 1 { s with pending := [writeCmdEvent s.cfg (encode i)] } = exec i { s with pending := [] } := by
  have hstep := step_cmdWrite (rest := []) hb hc (decodeEncodeRoundTrip i hi)
  obtain ⟨t, ht⟩ := exec_answers_next i { s with pending := [] }
  rw [ht] at hstep ⊢
  exact run_succ hstep

/-- A run of an idle block over the accesses of a command: the operands are stored and the command runs. -/
theorem run_writeArgs_cmdWrite {i : Instr} (hi : i.WellFormed) (operands : List Nat) :
    ∀ (n : Nat) (s : State), n + operands.length ≤ 4 → s.cfg.portBase.toNat % 4 = 0 → s.control = .idle →
      core.run (operands.length + 1)
          { s with pending := writeArgEvents s.cfg n operands ++ [writeCmdEvent s.cfg (encode i)] } =
        exec i { s with pending := [], arg := storeOperands s.arg n operands } := by
  induction operands with
  | nil => exact fun n s _ hb hc => run_cmdWrite hb hc hi
  | cons v rest ih =>
    intro n s hn hb hc
    have hn4 : n < 4 := by simp at hn; omega
    have hrest := ih (n + 1) { s with arg := s.arg.set n (BitVec.ofNat 32 v) } (by simp at hn; omega) hb hc
    rw [storeOperands, dif_pos hn4, ← hrest]
    exact run_succ (step_argWrite hb ⟨n, hn4⟩ _)

/-- A run of an idle block over the accesses of a command, from the first. -/
theorem run_commandEvents {s : State} (hok : s.cfg.Ok) (hc : s.control = .idle) {i : Instr}
    (hi : i.WellFormed) {operands : List Nat} (hlen : operands.length ≤ 4) :
    core.run (operands.length + 1) { s with pending := commandEvents s.cfg i operands } =
      exec i { s with pending := [], arg := storeOperands s.arg 0 operands } := by
  obtain ⟨_, _, _, hb, _, _⟩ := hok
  exact run_writeArgs_cmdWrite hi operands 0 s (by omega) hb hc

/-- Settles O50: `run_commandEvents` for each command; the assembler's check makes the command well formed. -/
theorem assembledLineRunsItsCommand : Obligations.AssembledLineRunsItsCommand := by
  intro s ch a b d e events hok hc
  have fits {ch : Nat} (h : ch ≤ 15) : decide (ch < 16) = true := decide_eq_true (by omega)
  refine ⟨fun h => ?_, fun h => ?_, fun h => ?_, fun h => ?_, fun h => ?_, fun h => ?_, fun h => ?_⟩ <;>
    obtain ⟨hw, rfl⟩ := assemble_some h <;>
    simp only [AsmLine.wellFormed, Bool.and_eq_true, decide_eq_true_eq] at hw
  · exact run_commandEvents hok hc (i := .pwmDeriveTin ch) (fits hw.1) (by simp)
  · exact run_commandEvents hok hc (i := .pwmSetConfig ch) (fits hw.1.1) (by simp)
  · exact run_commandEvents hok hc (i := .pwmSetEnable ch (a = 1)) (fits hw.1) (by simp)
  · exact run_commandEvents hok hc (i := .mmcGetBaseClock) rfl (by simp)
  · exact run_commandEvents hok hc (i := .mmcSetClock) rfl (by simp)
  · exact run_commandEvents hok hc (i := .mmcProgramDelay) rfl (by simp)
  · exact run_commandEvents hok hc (i := .mmcSelectClockMode (a = 1)) rfl (by simp)

end Sys2Proof.Machine
end

section
/-! `PWM.DERIVE_TIN`, `PWM.SET_ENABLE` and the channel check (40_pwm.md R85, R90, R98), as whole next
states. -/

namespace Sys2Proof.Machine

/-- Settles O18: the channel check comes first in each of the three commands. -/
theorem unsupportedChannelOnlySetsCode : Obligations.UnsupportedChannelOnlySetsCode :=
  fun s _ enable hc => ⟨execPwmDeriveTin_unsupported hc s, execPwmSetConfig_unsupported hc s,
    execPwmSetEnable_unsupported hc enable s⟩

/-- Settles O19: the derivation in closed form, where the clock is there and where it is not found. -/
theorem pwmDeriveTinMeaning : Obligations.PwmDeriveTinMeaning :=
  fun _ ch => ⟨fun _ hi => execPwmDeriveTin_of_is hi ch, fun hn => execPwmDeriveTin_of_notFound hn ch⟩

/-- Settles O33: `execPwmSetEnable_eq` with the start bit's mask written out. -/
theorem pwmSetEnableMeaning : Obligations.PwmSetEnableMeaning := by
  rintro s ch enable v rfl
  exact execPwmSetEnable_eq ch enable s

end Sys2Proof.Machine
end

section
/-! The divider search in natural numbers (40_pwm.md R88). -/

namespace Sys2Proof.Machine

/-- The rate of a divider that qualifies (40_pwm.md R88). -/
def pickedRate (ret : SearchReturn) (parent : Word) (d : Nat) : Word :=
  match ret with
  | .divide => parent / BitVec.ofNat 32 d
  | .shiftByDiv => parent >>> d

/-- The search over ascending dividers answers the rate of the first that qualifies. -/
theorem tinSearchFrom_first {ret : SearchReturn} {freq parent : Word} {d : Nat} {ds : List Nat}
    (hsorted : ds.Pairwise (· < ·)) (hd : d ∈ ds) (hq : parent / BitVec.ofNat 32 (d * 65536) < freq)
    (hfirst : ∀ d' ∈ ds, d' < d → ¬ parent / BitVec.ofNat 32 (d' * 65536) < freq) :
    tinSearchFrom ret freq parent ds = pickedRate ret parent d := by
  induction ds with
  | nil => cases hd
  | cons e rest ih =>
    obtain ⟨hlt, hrest⟩ := List.pairwise_cons.1 hsorted
    obtain ⟨hfirst_e, hfirst_rest⟩ := List.forall_mem_cons.1 hfirst
    rcases List.mem_cons.1 hd with rfl | hmem
    · exact if_pos hq
    · exact (if_neg (hfirst_e (hlt d hmem))).trans (ih hrest hmem hfirst_rest)

/-- With no divider that qualifies the search answers a sixteenth of the parent. -/
theorem tinSearchFrom_none {ret : SearchReturn} {freq parent : Word} {ds : List Nat}
    (hnone : ∀ d ∈ ds, ¬ parent / BitVec.ofNat 32 (d * 65536) < freq) :
    tinSearchFrom ret freq parent ds = parent / 16#32 := by
  induction ds with
  | nil => rfl
  | cons e rest ih =>
    obtain ⟨he, hrest⟩ := List.forall_mem_cons.1 hnone
    exact (if_neg he).trans (ih hrest)

/-- A quotient by a number that fits a word, as a number (00_scope.md R10). -/
theorem udiv_ofNat_toNat (w : Word) {n : Nat} (hn : n < 2 ^ 32) :
    (w / BitVec.ofNat 32 n).toNat = w.toNat / n := by
  rw [BitVec.toNat_udiv, BitVec.toNat_ofNat, Nat.mod_eq_of_lt hn]

/-- The rate of a divider that fits a word, as a number. -/
theorem pickedRate_toNat (ret : SearchReturn) (parent : Word) {d : Nat} (hd : d < 2 ^ 32) :
    (pickedRate ret parent d).toNat =
      match ret with
      | .divide => parent.toNat / d
      | .shiftByDiv => parent.toNat / 2 ^ d := by
  cases ret with
  | divide => exact udiv_ofNat_toNat parent hd
  | shiftByDiv => exact (BitVec.toNat_ushiftRight ..).trans (Nat.shiftRight_eq_div_pow ..)

/-- Whether a divider of R88 qualifies, in natural numbers. -/
theorem qualifies_iff (freq parent : Word) {d : Nat} (hd : d ∈ [2, 4, 8, 16]) :
    parent / BitVec.ofNat 32 (d * 65536) < freq ↔ parent.toNat / (d * 65536) < freq.toNat := by
  have hle : d ≤ 16 := (by decide : ∀ d ∈ [2, 4, 8, 16], d ≤ 16) d hd
  rw [BitVec.lt_def, udiv_ofNat_toNat parent (by omega)]

/-- Settles O20: the search over the ascending list 2, 4, 8, 16. -/
theorem tinSearchPicksFirstQualifyingDivider : Obligations.TinSearchPicksFirstQualifyingDivider := by
  intro c freq parent
  refine ⟨fun d hd hq hfirst => ?_, fun hnone => ?_⟩
  · have hle : d ≤ 16 := (by decide : ∀ d ∈ [2, 4, 8, 16], d ≤ 16) d hd
    have hsearch : tinSearch c freq parent = pickedRate c.searchReturn parent d :=
      tinSearchFrom_first (by decide) hd ((qualifies_iff freq parent hd).2 hq) fun d' hd' hlt =>
        mt (qualifies_iff freq parent hd').1 (hfirst d' hd' hlt).not_gt
    exact (congrArg BitVec.toNat hsearch).trans (pickedRate_toNat _ _ (by omega))
  · have hsearch : tinSearch c freq parent = parent / 16#32 :=
      tinSearchFrom_none fun d hd => mt (qualifies_iff freq parent hd).1 (hnone d hd).not_gt
    rw [hsearch, udiv_ofNat_toNat parent (by decide)]

end Sys2Proof.Machine
end

section
/-! `PWM.SET_CONFIG` (40_pwm.md R91 to R96): its checks, the timing it computes, and the whole next state of a
success. -/

namespace Sys2Proof.Machine

/-- An existing channel with a period or duty out of range (60_exceptions.md R146). -/
theorem execPwmSetConfig_outOfRange {s : State} (ch : Channel)
    (hr : outOfRange (s.operand 0) (s.operand 1)) :
    execPwmSetConfig ch.val s = .next (raiseError .rangeError s) := by
  simp only [execPwmSetConfig, checkChannel_val, if_pos hr]

/-- An existing channel with both in range and the duty above the period (60_exceptions.md R146). -/
theorem execPwmSetConfig_dutyAbovePeriod {s : State} (ch : Channel)
    (hr : ¬ outOfRange (s.operand 0) (s.operand 1)) (hd : s.operand 0 < s.operand 1) :
    execPwmSetConfig ch.val s = .next (raiseError .invalidError s) := by
  simp only [execPwmSetConfig, checkChannel_val, if_neg hr, if_pos hd]

/-- Settles O23: the first three branches of the command after the channel check. -/
theorem pwmSetConfigChecksInOrder : Obligations.PwmSetConfigChecksInOrder :=
  fun _ ch => ⟨execPwmSetConfig_outOfRange ch, execPwmSetConfig_dutyAbovePeriod ch,
    fun hr hd hn => execPwmSetConfig_of_notFound hn ch hr hd⟩

/-- The reload value of a count, where a count of 0 is no fault or does not occur: one less for a counter that
counts from 0, wrapping at 0, else the count (40_pwm.md R91). -/
def reloadValue (v : CounterVariant) (q : Word) : Word :=
  match v with
  | .fromZero => if q = 0#32 then 0xFFFFFFFF#32 else q - 1#32
  | .plain => q

/-- Step 4 of R91 where it does not fault. -/
theorem counterReload_ok {c : Config} {q : Word}
    (hnf : ¬ (c.counterVariant = .fromZero ∧ c.counterUnderflow = .fault ∧ q = 0#32)) :
    counterReload c q = .ok (reloadValue c.counterVariant q) := by
  unfold counterReload reloadValue
  cases hv : c.counterVariant with
  | plain => rfl
  | fromZero =>
    cases hu : c.counterUnderflow with
    | fault =>
      have hq : q ≠ 0#32 := fun hq => hnf ⟨hv, hu, hq⟩
      simp only [if_neg hq]
    | wrap => by_cases hq : q = 0#32 <;> simp only [hq, if_true, if_false]

/-- Steps 3 to 6 of R91 where none of them faults. -/
theorem pwmTiming_of_noFault {c : Config} {period tin tcnt : Word} (duty : Word) (htin : tin ≠ 0#32)
    (htns : ns / tin ≠ 0#32) (hcnt : counterReload c (period / (ns / tin)) = .ok tcnt) :
    pwmTiming c period duty tin = .ok (tcnt, tcnt - minWord (duty / (ns / tin)) tcnt) := by
  rw [pwmTiming, if_neg htin, if_neg htns, hcnt]

/-- A `PWM.SET_CONFIG` past its checks, with the clock there and a timing that does not fault. -/
theorem exec_setConfig_of_timing {s : State} {h : Handle} {ch : Channel} {tcnt tcmp : Word}
    (hr : ¬ outOfRange (s.operand 0) (s.operand 1)) (hd : ¬ s.operand 0 < s.operand 1)
    (hi : s.PwmClockIs h)
    (hp : pwmTiming s.cfg (s.operand 0) (s.operand 1) (s.derivedRate ch (ns / s.operand 0)) =
      .ok (tcnt, tcmp)) :
    exec (.pwmSetConfig ch.val) s = .next { s.afterDerive h with
      tcntb := s.tcntb.set ch.val tcnt
      tcmpb := s.tcmpb.set ch.val tcmp
      tcon := disarmedWord s.cfg ch (armedWord s.cfg ch s.tcon)
      status := setCode s.status okCode
      trace := s.trace ++ s.deriveEvents h ++ s.configEvents ch tcnt tcmp } := by
  show execPwmSetConfig ch.val s = _
  rw [execPwmSetConfig_of_is hi ch hr hd, hp]
  exact congrArg _ (configWrites_eq ch tcnt tcmp (s.afterDerive h))

/-- Settles O24: the hypotheses exclude every error and fault, so `exec_setConfig_of_timing` applies. -/
theorem pwmSetConfigMeaning : Obligations.PwmSetConfigMeaning := by
  rintro s ch h tin tns q tcnt tcmp t1 t2 hr hd hi rfl htin rfl htns rfl hnf rfl rfl rfl rfl
  exact exec_setConfig_of_timing hr hd hi (pwmTiming_of_noFault s.arg[1] htin htns (counterReload_ok hnf))

/-- What a successful `PWM.SET_CONFIG` leaves in the channel's compare register: the inverted and saturated
raw compare (40_pwm.md R92, R93). -/
theorem setConfig_success_compare {s t : State} {ch : Channel}
    (h : exec (.pwmSetConfig ch.val) s = .next t) (h0 : statusCode t.status = 0) :
    t.tcmpb[ch.val].toNat = t.tcntb[ch.val].toNat -
      min (s.operand 1 / (ns / s.derivedRate ch (ns / s.operand 0))).toNat t.tcntb[ch.val].toNat := by
  obtain ⟨k, tcnt, tcmp, _, htiming, rfl⟩ := setConfig_success h h0
  obtain ⟨_, _, _, rfl⟩ := pwmTiming_ok htiming
  simp only [Vector.getElem_set_self, sub_minWord_toNat]

/-- Settles O28: a difference in natural numbers is at most its first part. -/
theorem compareNeverExceedsReload : Obligations.CompareNeverExceedsReload := by
  intro s t ch h h0
  rw [setConfig_success_compare h h0]
  exact Nat.sub_le _ _

/-- Settles O29: `setConfig_success_compare`, with the raw compare as a number. -/
theorem compareIsInvertedAndSaturated : Obligations.CompareIsInvertedAndSaturated := by
  intro s t ch raw h h0 hraw
  have hcmp := setConfig_success_compare h h0
  rw [show (s.operand 1 / (ns / s.derivedRate ch (ns / s.operand 0))).toNat = raw by
    rw [hraw, BitVec.toNat_udiv, BitVec.toNat_udiv]; rfl] at hcmp
  refine ⟨hcmp, fun hlt => BitVec.eq_of_toNat_eq ?_⟩
  rw [hcmp, Nat.min_eq_right hlt.le, Nat.sub_self]
  rfl

/-- The first word of the handshake has the channel's update-pending and auto-reload bits set (R76). -/
theorem armedWord_bit {c : Config} {r : TconRole} {ch : Channel} (hlt : c.tconBit r ch < 32)
    (hr : r ≠ .start) (t : Word) : (armedWord c ch t).getLsbD (c.tconBit r ch) = true := by
  have hbit : (tconMask c r ch).getLsbD (c.tconBit r ch) = true := by
    rw [tconMask_bit hlt, decide_eq_true rfl]
  cases r with
  | start => exact absurd rfl hr
  | update => simp [armedWord, hbit]
  | autoReload => simp [armedWord, hbit]

/-- The second word has the update-pending bit clear (R76). -/
theorem disarmedWord_update_bit {c : Config} {ch : Channel} (hlt : c.tconBit .update ch < 32) (t1 : Word) :
    (disarmedWord c ch t1).getLsbD (c.tconBit .update ch) = false := by
  simp [disarmedWord, tconMask_bit hlt]

/-- Settles O30: the last two of `configEvents` are the writes, and the two words differ in the mask only. -/
theorem handshakeArmsThenDisarms : Obligations.HandshakeArmsThenDisarms := by
  rintro s t ch ⟨⟨hlt, _⟩, _⟩ h h0
  have hlt32 (r : TconRole) : s.cfg.tconBit r ch < 32 := hlt (r, ch) (mem_tconFields r ch)
  obtain ⟨k, tcnt, tcmp, _, _, rfl⟩ := setConfig_success h h0
  refine ⟨s.trace ++ s.deriveEvents k ++
      [.memWrite (TargetReg.addr s.cfg (.tcntb ch)) tcnt, .memWrite (TargetReg.addr s.cfg (.tcmpb ch)) tcmp,
        .memRead (TargetReg.tcon.addr s.cfg) s.tcon],
    armedWord s.cfg ch s.tcon, disarmedWord s.cfg ch (armedWord s.cfg ch s.tcon), ?_, rfl,
    armedWord_bit (hlt32 .update) (by decide) _, armedWord_bit (hlt32 .autoReload) (by decide) _,
    disarmedWord_update_bit (hlt32 .update) _, fun j hj => and_not_bit (tconMask_bit_ne hj)⟩
  simp [State.configEvents, TargetReg.addr]

end Sys2Proof.Machine
end

section
/-! The register writes of a repeated `PWM.SET_CONFIG` (40_pwm.md R96). -/

namespace Sys2Proof.Machine

/-- A `PWM.SET_CONFIG` that its checks reject makes no event (60_exceptions.md R149). -/
theorem setConfig_trace_of_rejected {ch : Nat} {s t : State} (h : exec (.pwmSetConfig ch) s = .next t)
    (hrej : 5 ≤ ch ∨ outOfRange (s.operand 0) (s.operand 1) ∨ s.operand 0 < s.operand 1) :
    t.trace = s.trace := by
  rcases execPwmSetConfig_forms h with ⟨_, rfl⟩ | ⟨c, rfl, ⟨_, rfl⟩ | ⟨_, _, rfl⟩ | ⟨hr, hd, _⟩⟩
  · rfl
  · rfl
  · rfl
  · rcases hrej with hch | hr' | hd'
    · exact absurd c.isLt hch.not_gt
    · exact absurd hr' hr
    · exact absurd hd' hd

/-- The target-register writes of a `PWM.SET_CONFIG` past its checks, with the clock there. -/
def State.setConfigWrites (s : State) (ch : Channel) : List (Word × Word) :=
  targetWrites (readbackEvents s.cfg) ++
    match pwmTiming s.cfg (s.operand 0) (s.operand 1) (s.derivedRate ch (ns / s.operand 0)) with
    | .error _ => []
    | .ok (tcnt, tcmp) => targetWrites (s.configEvents ch tcnt tcmp)

/-- The writes of a derivation are those of the fixed readback (40_pwm.md R87). -/
theorem targetWrites_deriveEvents (s : State) (h : Handle) :
    targetWrites (s.deriveEvents h) = targetWrites (readbackEvents s.cfg) := by
  have hresolve : targetWrites (resolveEvents s.pwmClk s.cfg.pwmParentClkName s.collab) = [] := by
    cases s.pwmClk <;> rfl
  rw [State.deriveEvents, targetWrites_append, targetWrites_append, hresolve]
  rfl

/-- What a `PWM.SET_CONFIG` past its checks does, with the clock there, as far as a second one depends on it:
it makes its writes, caches the clock, and keeps the word that a handshake arms. -/
theorem setConfig_accepted {s t : State} {ch : Channel} {h : Handle} (hi : s.PwmClockIs h)
    (hr : ¬ outOfRange (s.operand 0) (s.operand 1)) (hd : ¬ s.operand 0 < s.operand 1)
    (ht : exec (.pwmSetConfig ch.val) s = .next t) :
    targetWrites t.trace = targetWrites s.trace ++ s.setConfigWrites ch ∧ t.pwmClk = .resolved h ∧
      armedWord s.cfg ch t.tcon = armedWord s.cfg ch s.tcon := by
  unfold State.setConfigWrites
  cases hp : pwmTiming s.cfg (s.operand 0) (s.operand 1) (s.derivedRate ch (ns / s.operand 0)) with
  | error r =>
    rw [exec_setConfig_of_fault hr hd hi hp] at ht
    cases ht
    refine ⟨?_, rfl, rfl⟩
    rw [List.append_nil, ← targetWrites_deriveEvents s h]
    exact targetWrites_append _ _
  | ok v =>
    rw [exec_setConfig_of_timing (tcnt := v.1) (tcmp := v.2) hr hd hi hp] at ht
    cases ht
    refine ⟨?_, rfl, armedWord_disarmedWord _ _ _⟩
    simp only [targetWrites_append, targetWrites_deriveEvents, List.append_assoc]

/-- The writes depend on the operands, the configuration, the parent rate and the word to be armed only. -/
theorem setConfigWrites_congr {s t : State} {ch : Channel} (hcfg : t.cfg = s.cfg) (harg : t.arg = s.arg)
    (hrate : t.pwmRate = s.pwmRate) (harm : armedWord s.cfg ch t.tcon = armedWord s.cfg ch s.tcon) :
    t.setConfigWrites ch = s.setConfigWrites ch := by
  have hevents (tcnt tcmp : Word) :
      targetWrites (t.configEvents ch tcnt tcmp) = targetWrites (s.configEvents ch tcnt tcmp) := by
    simp [targetWrites, State.configEvents, hcfg, harm]
  simp only [State.setConfigWrites, State.derivedRate, State.operand, hcfg, harg, hrate, hevents]

/-- Settles O32: a command that its checks reject makes no write either time; else the second finds the clock
cached, the rate unchanged, and a `tcon` that arms to the same word. -/
theorem repeatedSetConfigWritesTheSame : Obligations.RepeatedSetConfigWritesTheSame := by
  intro s t t' u ch h hi ht ht' hrate hu
  obtain ⟨hcfg, harg, _⟩ := exec_keeps ht
  have hcfg' : t'.cfg = s.cfg := by rw [ht', ← hcfg]
  have harg' : t'.arg = s.arg := by rw [ht', ← harg]
  have hop (i : Fin 4) : t'.operand i = s.operand i := by simp only [State.operand, harg']
  by_cases hrej : 5 ≤ ch ∨ outOfRange (s.operand 0) (s.operand 1) ∨ s.operand 0 < s.operand 1
  · refine ⟨[], ?_, ?_⟩ <;> rw [List.append_nil]
    · rw [setConfig_trace_of_rejected ht hrej]
    · rw [setConfig_trace_of_rejected hu (by rwa [hop, hop])]
  · rw [not_or, not_or, not_le] at hrej
    obtain ⟨hch, hr, hd⟩ := hrej
    obtain ⟨hwrites, hclk, harm⟩ := setConfig_accepted (ch := ⟨ch, hch⟩) hi hr hd ht
    have hclk' : t'.pwmClk = .resolved h := by rw [ht', ← hclk]
    have hrate' : t'.pwmRate = s.pwmRate := by rw [State.pwmRate, hclk']; exact hrate
    have harm' : armedWord s.cfg ⟨ch, hch⟩ t'.tcon = armedWord s.cfg ⟨ch, hch⟩ s.tcon := by rw [ht', ← harm]
    obtain ⟨hwrites', _⟩ :=
      setConfig_accepted (ch := ⟨ch, hch⟩) (.inl hclk') (by rwa [hop, hop]) (by rwa [hop, hop]) hu
    exact ⟨_, hwrites, by rw [hwrites', setConfigWrites_congr hcfg' harg' hrate' harm']⟩

end Sys2Proof.Machine
end

section
/-! How often a command calls `ClkResolve` (40_pwm.md R86, 41_mmc.md R121). -/

namespace Sys2Proof.Machine

/-- The clock-handle cache of a command's engine. -/
def State.cacheOf (s : State) (i : Instr) : ClkCache := if isPwm i then s.pwmClk else s.mmcClk

/-- A resolution and events that call no `ClkResolve`: one call if the cache is empty, else none. -/
theorem resolveEvents_append_resolves {cache : ClkCache} {name : String} {c : Collaborator}
    {rest : List Event} (hrest : rest.countP Event.isResolve = 0) :
    (resolveEvents cache name c ++ rest).countP Event.isResolve = 1 - cache.count := by
  rw [List.countP_append, resolveEvents_resolves, hrest, Nat.add_zero]

/-- The accesses of a derivation to `tcfg0` and `tcfg1` call no `ClkResolve`. -/
theorem readbackEvents_resolves (c : Config) : (readbackEvents c).countP Event.isResolve = 0 := by
  unfold readbackEvents
  cases c.tinPolicy <;> rfl

/-- A derivation calls `ClkResolve` once if the cache is empty, else not (40_pwm.md R86, R89). -/
theorem deriveEvents_resolves (s : State) (h : Handle) :
    (s.deriveEvents h).countP Event.isResolve = 1 - s.pwmClk.count := by
  rw [State.deriveEvents, List.append_assoc]
  exact resolveEvents_append_resolves (readbackEvents_resolves s.cfg)

/-- A failed resolution is the one call of an empty cache. -/
theorem notFound_resolves {cache : ClkCache} (hu : cache = .unresolved) (name : String) :
    [Event.clkResolve name none].countP Event.isResolve = 1 - cache.count := by
  rw [hu]
  rfl

/-- A command either calls no `ClkResolve`, which the two MMC clock commands never choose, or resolves its
engine's clock: one call if the cache is empty, else none (40_pwm.md R86, 41_mmc.md R120). -/
theorem exec_resolves {i : Instr} {s t : State} (h : exec i s = .next t) :
    ∃ events, t.trace = s.trace ++ events ∧
      ((i ≠ .mmcGetBaseClock ∧ i ≠ .mmcSetClock ∧ events.countP Event.isResolve = 0) ∨
        events.countP Event.isResolve = 1 - (s.cacheOf i).count) := by
  have hnil : s.trace = s.trace ++ [] := (List.append_nil _).symm
  cases i with
  | pwmDeriveTin ch =>
    rcases execPwmDeriveTin_forms h with ⟨_, rfl⟩ | ⟨_, _, ⟨⟨hu, _⟩, rfl⟩ | ⟨k, _, rfl⟩⟩
    · exact ⟨_, hnil, .inl ⟨nofun, nofun, rfl⟩⟩
    · exact ⟨_, rfl, .inr (notFound_resolves hu _)⟩
    · exact ⟨_, rfl, .inr (deriveEvents_resolves s k)⟩
  | pwmSetConfig ch =>
    rcases execPwmSetConfig_forms h with ⟨_, rfl⟩ | ⟨c, _, ⟨_, rfl⟩ | ⟨_, _, rfl⟩ |
      ⟨_, _, ⟨⟨hu, _⟩, rfl⟩ | ⟨k, _, ⟨_, _, rfl⟩ | ⟨tcnt, tcmp, _, rfl⟩⟩⟩⟩
    · exact ⟨_, hnil, .inl ⟨nofun, nofun, rfl⟩⟩
    · exact ⟨_, hnil, .inl ⟨nofun, nofun, rfl⟩⟩
    · exact ⟨_, hnil, .inl ⟨nofun, nofun, rfl⟩⟩
    · exact ⟨_, rfl, .inr (notFound_resolves hu _)⟩
    · exact ⟨_, rfl, .inr (deriveEvents_resolves s k)⟩
    · refine ⟨_, List.append_assoc _ _ _, .inr ?_⟩
      rw [List.countP_append, deriveEvents_resolves]
      rfl
  | pwmSetEnable ch enable =>
    rcases execPwmSetEnable_forms h with ⟨_, rfl⟩ | ⟨_, _, rfl⟩
    · exact ⟨_, hnil, .inl ⟨nofun, nofun, rfl⟩⟩
    · exact ⟨_, rfl, .inl ⟨nofun, nofun, rfl⟩⟩
  | mmcGetBaseClock =>
    rcases execMmcGetBaseClock_forms h with ⟨⟨hu, _⟩, rfl⟩ | ⟨_, _, rfl⟩
    · exact ⟨_, rfl, .inr (notFound_resolves hu _)⟩
    · exact ⟨_, List.append_assoc _ _ _, .inr (resolveEvents_append_resolves rfl)⟩
  | mmcSetClock =>
    rcases execMmcSetClock_forms h with ⟨⟨hu, _⟩, rfl⟩ | ⟨_, _, rfl⟩
    · exact ⟨_, rfl, .inr (notFound_resolves hu _)⟩
    · exact ⟨_, List.append_assoc _ _ _, .inr (resolveEvents_append_resolves rfl)⟩
  | mmcProgramDelay =>
    obtain rfl := execMmcProgramDelay_forms h
    exact ⟨_, rfl, .inl ⟨nofun, nofun, rfl⟩⟩
  | mmcSelectClockMode boosted =>
    obtain rfl := execMmcSelectClockMode_forms h
    exact ⟨_, rfl, .inl ⟨nofun, nofun, rfl⟩⟩

/-- Settles O43: `exec_resolves`, with the count of each cache. -/
theorem clkResolveIsCalledAtMostOnce : Obligations.ClkResolveIsCalledAtMostOnce := by
  intro i s t h
  obtain ⟨events, htrace, hcalls⟩ := exec_resolves h
  have hle : events.countP Event.isResolve ≤ 1 - (s.cacheOf i).count := by
    rcases hcalls with ⟨_, _, h0⟩ | heq
    · rw [h0]
      exact Nat.zero_le _
    · exact heq.le
  have hcached (k : Handle) (hk : s.cacheOf i = .resolved k) : events.countP Event.isResolve = 0 := by
    rw [hk] at hle
    exact Nat.le_zero.1 hle
  refine ⟨events, htrace, by omega, fun k hp hk => hcached k ?_, fun k hp hk => hcached k ?_, fun hi hu => ?_⟩
  · simp only [State.cacheOf, hp, hk, Bool.false_eq_true, if_false]
  · simp only [State.cacheOf, hp, hk, if_true]
  · have hcache : s.cacheOf i = .unresolved := by rcases hi with rfl | rfl <;> exact hu
    rcases hcalls with ⟨hne1, hne2, _⟩ | heq
    · exact absurd hi (by simp [hne1, hne2])
    · rw [heq, hcache]
      rfl

end Sys2Proof.Machine
end

section
/-! The MMC commands as whole next states (41_mmc.md R122 to R124), and the ratio field of the two clock modes
(R126). -/

namespace Sys2Proof.Machine

/-- Settles O34: the word returned is the rate divided by 2, and unsigned division truncates. -/
theorem mmcGetBaseClockMeaning : Obligations.MmcGetBaseClockMeaning := by
  rintro s rate rfl
  refine ⟨fun h hi => ⟨(collabAfterResolve s.mmcClk s.collab).nextRate / 2#32, ?_, ?_⟩, fun hn => ?_⟩
  · exact BitVec.toNat_udiv
  · exact execMmcGetBaseClock_of_is hi
  · exact execMmcGetBaseClock_of_notFound hn

/-- Settles O35: the command in closed form, where the clock is there and where it is not found. -/
theorem mmcSetClockMeaning : Obligations.MmcSetClockMeaning := by
  rintro s answer rfl
  exact ⟨fun _ hi => execMmcSetClock_of_is hi, fun hn => execMmcSetClock_of_notFound hn⟩

/-- Settles O36: `execMmcProgramDelay_eq` with the operands and the address written out. -/
theorem mmcProgramDelayMeaning : Obligations.MmcProgramDelayMeaning := by
  rintro s w rfl
  exact execMmcProgramDelay_eq s

/-- Settles O40: `CLKSEL` holds the two words of `clkSelWord_eq`. -/
theorem clockModesDifferOnlyInRatio : Obligations.ClockModesDifferOnlyInRatio := by
  intro s t u ht hu
  have htw : t.clksel = 0x01000000#32 := by rw [execMmcSelectClockMode_forms ht, clkSelWord_eq, if_pos rfl]
  have huw : u.clksel = 0x03000000#32 := by
    rw [execMmcSelectClockMode_forms hu, clkSelWord_eq, if_neg Bool.false_ne_true]
  rw [htw, huw]
  decide

end Sys2Proof.Machine
end

section
/-! What each engine leaves of the other (41_mmc.md R127): a command's state frame and the registers its events
access, once per engine. -/

namespace Sys2Proof.Machine

/-- A PWM command leaves the MMC registers and the MMC cache, and its accesses are at PWM registers. -/
theorem exec_pwm_footprint {i : Instr} {s t : State} (hi : isPwm i = true) (h : exec i s = .next t) :
    t.clksel = s.clksel ∧ t.clkdly = s.clkdly ∧ t.mmcClk = s.mmcClk ∧
      ∃ events, t.trace = s.trace ++ events ∧ ∀ e ∈ events, e.OnlyAt s.cfg pwmRegs := by
  have hnil : s.trace = s.trace ++ [] := (List.append_nil _).symm
  cases i with
  | pwmDeriveTin ch =>
    rcases execPwmDeriveTin_forms h with ⟨_, rfl⟩ | ⟨_, _, ⟨_, rfl⟩ | ⟨k, _, rfl⟩⟩
    · exact ⟨rfl, rfl, rfl, _, hnil, nofun⟩
    · exact ⟨rfl, rfl, rfl, _, rfl, List.forall_mem_singleton.2 trivial⟩
    · exact ⟨rfl, rfl, rfl, _, rfl, deriveEvents_onlyAt s k⟩
  | pwmSetConfig ch =>
    rcases execPwmSetConfig_forms h with ⟨_, rfl⟩ | ⟨c, _, ⟨_, rfl⟩ | ⟨_, _, rfl⟩ |
      ⟨_, _, ⟨_, rfl⟩ | ⟨k, _, ⟨_, _, rfl⟩ | ⟨tcnt, tcmp, _, rfl⟩⟩⟩⟩
    · exact ⟨rfl, rfl, rfl, _, hnil, nofun⟩
    · exact ⟨rfl, rfl, rfl, _, hnil, nofun⟩
    · exact ⟨rfl, rfl, rfl, _, hnil, nofun⟩
    · exact ⟨rfl, rfl, rfl, _, rfl, List.forall_mem_singleton.2 trivial⟩
    · exact ⟨rfl, rfl, rfl, _, rfl, deriveEvents_onlyAt s k⟩
    · exact ⟨rfl, rfl, rfl, _, List.append_assoc _ _ _,
        List.forall_mem_append.2 ⟨deriveEvents_onlyAt s k, configEvents_onlyAt s c tcnt tcmp⟩⟩
  | pwmSetEnable ch enable =>
    have htcon : TargetReg.tcon ∈ pwmRegs := mem_pwmRegs _ nofun nofun
    rcases execPwmSetEnable_forms h with ⟨_, rfl⟩ | ⟨_, _, rfl⟩
    · exact ⟨rfl, rfl, rfl, _, hnil, nofun⟩
    · exact ⟨rfl, rfl, rfl, _, rfl,
        List.forall_mem_cons.2 ⟨⟨_, htcon, rfl⟩, List.forall_mem_singleton.2 ⟨_, htcon, rfl⟩⟩⟩
  | mmcGetBaseClock | mmcSetClock | mmcProgramDelay | mmcSelectClockMode _ => cases hi

/-- An MMC command leaves the PWM registers and the PWM cache, and its accesses are at MMC registers. -/
theorem exec_mmc_footprint {i : Instr} {s t : State} (hi : isPwm i = false) (h : exec i s = .next t) :
    (t.tcfg0 = s.tcfg0 ∧ t.tcfg1 = s.tcfg1 ∧ t.tcon = s.tcon ∧ t.tcntb = s.tcntb ∧ t.tcmpb = s.tcmpb ∧
      t.pwmClk = s.pwmClk) ∧
    ∃ events, t.trace = s.trace ++ events ∧ ∀ e ∈ events, e.OnlyAt s.cfg [.clksel, .clkdly] := by
  cases i with
  | mmcGetBaseClock =>
    rcases execMmcGetBaseClock_forms h with ⟨_, rfl⟩ | ⟨_, _, rfl⟩ <;>
      refine ⟨⟨rfl, rfl, rfl, rfl, rfl, rfl⟩, ?_⟩
    · exact ⟨_, rfl, List.forall_mem_singleton.2 trivial⟩
    · exact ⟨_, List.append_assoc _ _ _,
        List.forall_mem_append.2 ⟨resolveEvents_onlyAt, List.forall_mem_singleton.2 trivial⟩⟩
  | mmcSetClock =>
    rcases execMmcSetClock_forms h with ⟨_, rfl⟩ | ⟨_, _, rfl⟩ <;>
      refine ⟨⟨rfl, rfl, rfl, rfl, rfl, rfl⟩, ?_⟩
    · exact ⟨_, rfl, List.forall_mem_singleton.2 trivial⟩
    · exact ⟨_, List.append_assoc _ _ _,
        List.forall_mem_append.2 ⟨resolveEvents_onlyAt, by simp [Event.OnlyAt]⟩⟩
  | mmcProgramDelay =>
    obtain rfl := execMmcProgramDelay_forms h
    exact ⟨⟨rfl, rfl, rfl, rfl, rfl, rfl⟩, _, rfl, List.forall_mem_singleton.2 ⟨.clkdly, by simp, rfl⟩⟩
  | mmcSelectClockMode boosted =>
    obtain rfl := execMmcSelectClockMode_forms h
    exact ⟨⟨rfl, rfl, rfl, rfl, rfl, rfl⟩, _, rfl, List.forall_mem_singleton.2 ⟨.clksel, by simp, rfl⟩⟩
  | pwmDeriveTin _ | pwmSetConfig _ | pwmSetEnable _ _ => cases hi

/-- Settles O41: the footprint of the command's own engine; the other clause's hypothesis fails. -/
theorem enginesAreIndependent : Obligations.EnginesAreIndependent := by
  intro i s t h
  cases hi : isPwm i with
  | true =>
    obtain ⟨hsel, hdly, hclk, hevents⟩ := exec_pwm_footprint hi h
    exact ⟨nofun, fun _ => ⟨hsel, hdly, hclk⟩, hevents⟩
  | false =>
    obtain ⟨hpwm, hevents⟩ := exec_mmc_footprint hi h
    exact ⟨fun _ => hpwm, nofun, hevents⟩

end Sys2Proof.Machine
end

section
/-! How a command ends, as a whole state and in order of precedence (60_exceptions.md R149 to R151). -/

namespace Sys2Proof.Machine

/-- Settles O7: of what a step without a reset can do, a faulted block rules out running a command and rejecting
an illegal word (`step_noReset_cases`). -/
theorem faultedBlockOnlyServesReadsAndArgWrites : Obligations.FaultedBlockOnlyServesReadsAndArgWrites := by
  intro s t hf hn h
  have hidle : s.control ≠ .idle := by rw [hf]; nofun
  rcases step_noReset_cases hn h with ⟨_, _, rfl⟩ | ⟨_, _, _, _, rfl, _⟩ | ⟨_, _, hc, _⟩ | ⟨_, hc, _⟩
  · rfl
  · rfl
  · exact absurd hc hidle
  · exact absurd hc hidle

/-- `STATUS` of `t` holds the code of an outcome of R151, and its reason where it has one. -/
def State.Reports (t : State) (outcome : BitVec 4 × Option (BitVec 4)) : Prop :=
  statusCode t.status = outcome.1 ∧ ∀ reason, outcome.2 = some reason → statusFreason t.status = reason

/-- A replaced code reports the outcome of that code without a reason. -/
theorem reports_of_setCode {t : State} {w : Word} {c : BitVec 4} {outcome : BitVec 4 × Option (BitVec 4)}
    (ht : t.status = setCode w c) (ho : outcome = (c, none)) : t.Reports outcome := by
  rw [ho]
  exact ⟨by rw [ht, statusCode_setCode], nofun⟩

/-- The bits of a fault report code 6 and the reason. -/
theorem reports_of_setFaultBits {t : State} {w : Word} {r : BitVec 4} {outcome : BitVec 4 × Option (BitVec 4)}
    (ht : t.status = setFaultBits w r) (ho : outcome = (6, some r)) : t.Reports outcome := by
  rw [ho]
  refine ⟨by rw [ht, statusCode_setFaultBits], ?_⟩
  rintro reason ⟨⟩
  rw [ht, statusFreason_setFaultBits]

/-- The outcome of R151 that a timing stands for: the fault's, or success. -/
def timingOutcome : Except FaultReason (Word × Word) → BitVec 4 × Option (BitVec 4)
  | .error r => (6, some r.code)
  | .ok _ => (0, none)

/-- The faults of a timing in the order of R151; the count is 0 exactly where the period is shorter than a tick. -/
theorem timingOutcome_pwmTiming (c : Config) (period duty tin : Word) :
    timingOutcome (pwmTiming c period duty tin) =
      if tin = 0#32 then (6, some 1)
      else if ns < tin then (6, some 2)
      else if c.counterVariant = .fromZero ∧ c.counterUnderflow = .fault ∧ period < ns / tin then (6, some 3)
      else (0, none) := by
  by_cases htin : tin = 0#32
  · rw [if_pos htin, htin, pwmTiming_rateZero]
    rfl
  by_cases hgt : ns < tin
  · rw [if_neg htin, if_pos hgt, pwmTiming_nsZero _ _ _ hgt]
    rfl
  have htns : ns / tin ≠ 0#32 := fun h => (BitVec.udiv_eq_zero_iff_eq_zero_or_lt.1 h).elim htin hgt
  have hcount : period / (ns / tin) = 0#32 ↔ period < ns / tin :=
    BitVec.udiv_eq_zero_iff_eq_zero_or_lt.trans (or_iff_right htns)
  rw [if_neg htin, if_neg hgt]
  by_cases hq : c.counterVariant = .fromZero ∧ c.counterUnderflow = .fault ∧ period < ns / tin
  · obtain ⟨hv, hu, hlt⟩ := hq
    rw [if_pos ⟨hv, hu, hlt⟩, pwmTiming_underflow duty htin hgt hv hu (hcount.2 hlt)]
    rfl
  · rw [if_neg hq, pwmTiming_of_noFault duty htin htns (counterReload_ok (by rwa [hcount]))]
    rfl

/-- `PWM.SET_CONFIG` past its checks, with the clock there, is expected to end as its timing does. -/
theorem expectedOutcome_setConfig_timing {s : State} {k : Handle} (c : Channel)
    (hr : ¬ outOfRange (s.operand 0) (s.operand 1)) (hd : ¬ s.operand 0 < s.operand 1) (hk : s.PwmClockIs k) :
    expectedOutcome (.pwmSetConfig c.val) s =
      timingOutcome (pwmTiming s.cfg (s.operand 0) (s.operand 1) (s.derivedRate c (ns / s.operand 0))) := by
  rw [timingOutcome_pwmTiming, expectedOutcome, dif_pos c.isLt, if_neg hr, if_neg hd,
    if_neg (pwmClock_not_both hk)]

/-- Every command reports the first outcome that applies, in the order of R151. -/
theorem exec_reports {i : Instr} {s t : State} (h : exec i s = .next t) : t.Reports (expectedOutcome i s) := by
  cases i with
  | pwmDeriveTin ch =>
    rcases execPwmDeriveTin_forms h with ⟨hc, rfl⟩ | ⟨c, rfl, ⟨hn, rfl⟩ | ⟨k, hk, rfl⟩⟩
    · exact reports_of_setCode rfl (if_pos hc)
    · exact reports_of_setCode rfl ((if_neg c.isLt.not_ge).trans (if_pos hn))
    · exact reports_of_setCode rfl ((if_neg c.isLt.not_ge).trans (if_neg (pwmClock_not_both hk)))
  | pwmSetConfig ch =>
    rcases execPwmSetConfig_forms h with ⟨hc, rfl⟩ | ⟨c, rfl, ⟨hr, rfl⟩ | ⟨hr, hd, rfl⟩ |
      ⟨hr, hd, ⟨hn, rfl⟩ | ⟨k, hk, ⟨r, hp, rfl⟩ | ⟨tcnt, tcmp, hp, rfl⟩⟩⟩⟩
    · exact reports_of_setCode rfl (dif_neg hc.not_gt)
    · exact reports_of_setCode rfl ((dif_pos c.isLt).trans (if_pos hr))
    · exact reports_of_setCode rfl ((dif_pos c.isLt).trans ((if_neg hr).trans (if_pos hd)))
    · exact reports_of_setCode rfl
        ((dif_pos c.isLt).trans ((if_neg hr).trans ((if_neg hd).trans (if_pos hn))))
    · exact reports_of_setFaultBits rfl
        ((expectedOutcome_setConfig_timing c hr hd hk).trans (congrArg timingOutcome hp))
    · exact reports_of_setCode rfl
        ((expectedOutcome_setConfig_timing c hr hd hk).trans (congrArg timingOutcome hp))
  | pwmSetEnable ch enable =>
    rcases execPwmSetEnable_forms h with ⟨hc, rfl⟩ | ⟨c, rfl, rfl⟩
    · exact reports_of_setCode rfl (if_pos hc)
    · exact reports_of_setCode rfl (if_neg c.isLt.not_ge)
  | mmcGetBaseClock =>
    rcases execMmcGetBaseClock_forms h with ⟨hn, rfl⟩ | ⟨k, hk, rfl⟩
    · exact reports_of_setCode rfl (if_pos hn)
    · exact reports_of_setCode rfl (if_neg (mmcClock_not_both hk))
  | mmcSetClock =>
    rcases execMmcSetClock_forms h with ⟨hn, rfl⟩ | ⟨k, hk, rfl⟩
    · exact reports_of_setCode rfl (if_pos hn)
    · exact reports_of_setCode rfl (if_neg (mmcClock_not_both hk))
  | mmcProgramDelay =>
    obtain rfl := execMmcProgramDelay_forms h
    exact reports_of_setCode rfl rfl
  | mmcSelectClockMode boosted =>
    obtain rfl := execMmcSelectClockMode_forms h
    exact reports_of_setCode rfl rfl

/-- A `CMD` write of an illegal word in an idle block is rejected (30_encoding.md R69). -/
theorem launch_of_illegal {w : Word} {s : State} {e : IllegalWord} (hc : s.control = .idle)
    (hd : decode w = .error e) : launch w s = .next (rejectIllegal s) := by
  simp only [launch, hc, hd]

/-- Settles O26: `exec_reports`, and the code of a rejected word. -/
theorem oneOutcomeInOrderOfPrecedence : Obligations.OneOutcomeInOrderOfPrecedence := by
  refine ⟨fun i s t => exec_reports, fun w s t e hc hd h => ?_⟩
  rw [launch_of_illegal hc hd] at h
  cases h
  exact statusCode_setCode _ _

/-- A command ends with code 0 or 6, or raises its error in the state it started from, or in that state after one
failed `ClkResolve` (60_exceptions.md R149). -/
theorem exec_ok_or_fault_or_raiseError {i : Instr} {s t : State} (h : exec i s = .next t) :
    statusCode t.status = 0 ∨ statusCode t.status = 6 ∨ (∃ e, t = raiseError e s) ∨
      ∃ name, t = raiseError .clockResolutionError (s.afterNotFound name) := by
  cases i with
  | pwmDeriveTin ch =>
    rcases execPwmDeriveTin_forms h with ⟨_, rfl⟩ | ⟨_, _, ⟨_, rfl⟩ | ⟨_, _, rfl⟩⟩
    · exact .inr (.inr (.inl ⟨_, rfl⟩))
    · exact .inr (.inr (.inr ⟨_, rfl⟩))
    · exact .inl (statusCode_setCode _ _)
  | pwmSetConfig ch =>
    rcases execPwmSetConfig_forms h with ⟨_, rfl⟩ | ⟨_, _, ⟨_, rfl⟩ | ⟨_, _, rfl⟩ |
      ⟨_, _, ⟨_, rfl⟩ | ⟨_, _, ⟨_, _, rfl⟩ | ⟨_, _, _, rfl⟩⟩⟩⟩
    · exact .inr (.inr (.inl ⟨_, rfl⟩))
    · exact .inr (.inr (.inl ⟨_, rfl⟩))
    · exact .inr (.inr (.inl ⟨_, rfl⟩))
    · exact .inr (.inr (.inr ⟨_, rfl⟩))
    · exact .inr (.inl (statusCode_setFaultBits _ _))
    · exact .inl (statusCode_setCode _ _)
  | pwmSetEnable ch enable =>
    rcases execPwmSetEnable_forms h with ⟨_, rfl⟩ | ⟨_, _, rfl⟩
    · exact .inr (.inr (.inl ⟨_, rfl⟩))
    · exact .inl (statusCode_setCode _ _)
  | mmcGetBaseClock =>
    rcases execMmcGetBaseClock_forms h with ⟨_, rfl⟩ | ⟨_, _, rfl⟩
    · exact .inr (.inr (.inr ⟨_, rfl⟩))
    · exact .inl (statusCode_setCode _ _)
  | mmcSetClock =>
    rcases execMmcSetClock_forms h with ⟨_, rfl⟩ | ⟨_, _, rfl⟩
    · exact .inr (.inr (.inr ⟨_, rfl⟩))
    · exact .inl (statusCode_setCode _ _)
  | mmcProgramDelay =>
    obtain rfl := execMmcProgramDelay_forms h
    exact .inl (statusCode_setCode _ _)
  | mmcSelectClockMode boosted =>
    obtain rfl := execMmcSelectClockMode_forms h
    exact .inl (statusCode_setCode _ _)

/-- Settles O27: with code 0 and 6 excluded the command has raised an error, which replaces `CODE` only. -/
theorem erroredCommandChangesOnlyCode : Obligations.ErroredCommandChangesOnlyCode := by
  intro i s t h h0 h6
  rcases exec_ok_or_fault_or_raiseError h with hc | hc | ⟨e, rfl⟩ | ⟨name, rfl⟩
  · exact absurd hc h0
  · exact absurd hc h6
  · exact ⟨setCode_bit_high _ _, .inl rfl⟩
  · exact ⟨setCode_bit_high _ _, .inr ⟨statusCode_setCode _ _, name, rfl⟩⟩

end Sys2Proof.Machine
end

section
/-! Reset (70_reset_and_hazards.md R170 to R172): what it leaves, and that no other step does the same. -/

namespace Sys2Proof.Machine

/-- With nothing pending the block waits (10_state.md R20). -/
theorem step_of_nothingPending {s : State} (hp : s.pending = []) : step s = .next s := by
  rw [step, hostStep, hp]

/-- A step whose next event is a reset. -/
theorem step_reset {s : State} {c : Config} {rest : List HostEvent} (hp : s.pending = .reset c :: rest) :
    step s = if c.Ok then .next (resetBlock c { s with pending := rest })
      else .refused .configurationNotAllowed :=
  step_pending hp

/-- A reset clears the `ARG` registers (R170). -/
@[simp] theorem resetBlock_arg_getElem (c : Config) (s : State) (i : Fin 4) : (resetBlock c s).arg[i.val] = 0 :=
  Vector.getElem_replicate _

/-- The initial state is as a reset under the initial configuration leaves it. -/
theorem reset_eq_resetBlock : State.reset = resetBlock Config.initial State.reset := rfl

/-- Settles O14: a command keeps the configuration and a cached handle (`exec_keeps`), a faulted block runs
none, and a reset that is taken leaves `resetBlock`. -/
theorem onlyResetClearsFaultCachesConfiguration : Obligations.OnlyResetClearsFaultCachesConfiguration := by
  refine ⟨fun s t hn h => ?_, fun s t c hp h => ?_⟩
  · rcases step_noReset_cases hn h with ⟨_, _, rfl⟩ | ⟨_, _, _, _, rfl, _⟩ | ⟨i, p, hi, he⟩ | ⟨p, hi, rfl⟩
    · exact ⟨id, fun _ => id, fun _ => id, rfl⟩
    · exact ⟨id, fun _ => id, fun _ => id, rfl⟩
    · obtain ⟨hcfg, _, _, _, hpwm, hmmc⟩ := exec_keeps he
      exact ⟨fun hf => absurd (hi.symm.trans hf) nofun, hpwm, hmmc, hcfg⟩
    · exact ⟨id, fun _ => id, fun _ => id, rfl⟩
  · obtain ⟨rest, hrest⟩ := List.head?_eq_some_iff.1 hp
    rw [step_reset hrest] at h
    split at h
    · cases h
      exact ⟨rfl, rfl, rfl, rfl⟩
    · cases h

/-- Settles O12: an allowed reset leaves `resetBlock`, field by field. -/
theorem resetLeavesTheStatedValues : Obligations.ResetLeavesTheStatedValues := by
  intro s c rest hc hp
  exact ⟨resetBlock c { s with pending := rest }, (step_reset hp).trans (if_pos hc), rfl,
    resetBlock_arg_getElem c _, rfl, rfl, rfl, rfl, rfl, rfl, rfl, rfl, rfl, rfl, rfl, rfl, rfl, rfl⟩

/-- Settles O13: the values of a reset (`reset_eq_resetBlock`), and nothing is pending. -/
theorem resetStateIsIdleAndWaits : Obligations.ResetStateIsIdleAndWaits :=
  ⟨rfl, resetBlock_arg_getElem Config.initial State.reset, rfl, rfl, rfl, rfl, rfl,
    step_of_nothingPending rfl⟩

/-- Settles O16: a reset that samples an allowed configuration establishes the invariant. -/
theorem resetStateMeetsTheBlockInvariant : Obligations.ResetStateMeetsTheBlockInvariant := by
  have hok : Config.initial.Ok := by decide
  rw [Obligations.ResetStateMeetsTheBlockInvariant, reset_eq_resetBlock]
  exact resetBlock_inv hok State.reset

end Sys2Proof.Machine
end

section
/-! No step but a reset leaves a channel armed (70_reset_and_hazards.md R174; 40_pwm.md R94). -/

namespace Sys2Proof.Machine

/-- The named bits of `tcon` are below 32 (10_state.md R31). -/
theorem tconBit_lt {c : Config} (hc : c.TconBitsOk) (r : TconRole) (ch : Channel) : c.tconBit r ch < 32 := by
  obtain ⟨hlt, _⟩ := hc
  exact hlt (r, ch) (mem_tconFields r ch)

/-- Two named bits of `tcon` with another role or another channel are distinct (10_state.md R31). -/
theorem tconBit_ne {c : Config} (hc : c.TconBitsOk) {r r' : TconRole} {ch ch' : Channel}
    (hne : (r, ch) ≠ (r', ch')) : c.tconBit r ch ≠ c.tconBit r' ch' := by
  obtain ⟨_, hinj⟩ := hc
  exact fun heq => hne (hinj _ (mem_tconFields r ch) _ (mem_tconFields r' ch') heq)

/-- A word shares no bit with a mask of `tcon` exactly if the mask's bit is clear in it. -/
theorem and_tconMask_eq_zero_iff {c : Config} {r : TconRole} {ch : Channel} (hlt : c.tconBit r ch < 32)
    (w : Word) : w &&& tconMask c r ch = 0#32 ↔ w.getLsbD (c.tconBit r ch) = false := by
  constructor
  · intro h
    have hbit := congrArg (·.getLsbD (c.tconBit r ch)) h
    simpa [tconMask_bit hlt] using hbit
  · intro h
    refine BitVec.eq_of_getLsbD_eq fun k _ => ?_
    by_cases hk : k = c.tconBit r ch
    · simp [hk, h]
    · simp [tconMask_bit_ne hk]

/-- An unarmed state, bit by bit. -/
theorem unarmed_iff {s : State} (hc : s.cfg.TconBitsOk) :
    s.Unarmed ↔ ∀ ch, s.tcon.getLsbD (s.cfg.tconBit .update ch) = false :=
  forall_congr' fun ch => and_tconMask_eq_zero_iff (tconBit_lt hc .update ch) s.tcon

/-- The update handshake arms no channel: it clears its own channel's update bit and keeps the others'. -/
theorem handshakeWord_update_bit {c : Config} (hc : c.TconBitsOk) {t : Word} {ch ch' : Channel}
    (ht : t.getLsbD (c.tconBit .update ch') = false) :
    (disarmedWord c ch (armedWord c ch t)).getLsbD (c.tconBit .update ch') = false := by
  by_cases hch : ch' = ch
  · subst hch
    exact disarmedWord_update_bit (tconBit_lt hc .update ch') _
  · rw [handshakeWord_bit fun r => tconBit_ne hc (by simp [hch]), ht]

/-- `PWM.SET_ENABLE` arms no channel: it changes a start bit (30_encoding.md R76). -/
theorem enableWord_update_bit {c : Config} (hc : c.TconBitsOk) {t : Word} {ch ch' : Channel} {enable : Bool}
    (ht : t.getLsbD (c.tconBit .update ch') = false) :
    (enableWord c ch enable t).getLsbD (c.tconBit .update ch') = false := by
  have hstart : (tconMask c .start ch).getLsbD (c.tconBit .update ch') = false :=
    tconMask_bit_ne (tconBit_ne hc (by simp))
  cases enable <;> simp [enableWord, ht, hstart]

/-- A command arms no channel. -/
theorem exec_unarmed {i : Instr} {s t : State} (hc : s.cfg.TconBitsOk) (hu : s.Unarmed)
    (h : exec i s = .next t) : t.Unarmed := by
  obtain ⟨hcfg, _⟩ := exec_keeps h
  rw [unarmed_iff hc] at hu
  rw [unarmed_iff (hcfg ▸ hc), hcfg]
  intro ch'
  rcases exec_tcon h with ht | ⟨ch, _, ht | ⟨enable, ht⟩⟩ <;> rw [ht]
  · exact hu ch'
  · exact handshakeWord_update_bit hc (hu ch')
  · exact enableWord_update_bit hc (hu ch')

/-- Settles O17: a step short of a reset runs a command (`exec_unarmed`) or touches no `tcon`. -/
theorem stepLeavesNoChannelArmed : Obligations.StepLeavesNoChannelArmed := by
  rintro s t ⟨hc, _⟩ hu hn h
  rcases step_noReset_cases hn h with ⟨_, _, rfl⟩ | ⟨_, _, _, _, rfl, _⟩ | ⟨i, p, _, he⟩ | ⟨p, _, rfl⟩
  · exact hu
  · exact hu
  · exact exec_unarmed (s := { s with pending := p }) hc hu he
  · exact hu

end Sys2Proof.Machine
end

section
/-! The host's divider under `FixedReadback` and `Plain` (70_reset_and_hazards.md R177): the zero writes stay,
and zero fields divide by 1 twice. -/

namespace Sys2Proof.Machine

/-- A field of a zero word is 0. -/
theorem bitField_zero (lsb width : Nat) : bitField 0#32 lsb width = 0#32 := by
  simp [bitField]

/-- With both divider registers 0, the fixed readback gives the parent rate (40_pwm.md R87). -/
theorem fixedReadbackRate_zero (c : Config) (ch : Channel) (parent : Word) :
    fixedReadbackRate c ch parent 0#32 0#32 = parent := by
  simp [fixedReadbackRate, prescalerDiv, muxPreDiv, bitField_zero]

/-- A derivation under `FixedReadback` and `Plain` leaves 0 in `tcfg0` and `tcfg1`. -/
theorem afterDerive_tcfg_zero {s : State} (hp : s.cfg.tinPolicy = .fixedReadback)
    (hb : s.cfg.tcfgReadback = .plain) (h : Handle) :
    (s.afterDerive h).tcfg0 = 0#32 ∧ (s.afterDerive h).tcfg1 = 0#32 := by
  simp [State.afterDerive, hp, readback0, readback1, hb]

/-- A derivation under `FixedReadback` and `Plain` gives the parent rate. -/
theorem derivedRate_of_plain {s : State} (hp : s.cfg.tinPolicy = .fixedReadback)
    (hb : s.cfg.tcfgReadback = .plain) (ch : Channel) (freq : Word) : s.derivedRate ch freq = s.pwmRate := by
  simp [State.derivedRate, hp, readback0, readback1, hb, fixedReadbackRate_zero]

/-- A `PWM.SET_CONFIG` past its checks, with the clock there, leaves `tcfg0` and `tcfg1` as its derivation
does, whether it faults or not. -/
theorem exec_setConfig_tcfg {s : State} {ch : Channel} {h : Handle} (hi : s.PwmClockIs h)
    (hr : ¬ outOfRange (s.operand 0) (s.operand 1)) (hd : ¬ s.operand 0 < s.operand 1) :
    ∃ t, exec (.pwmSetConfig ch.val) s = .next t ∧ t.tcfg0 = (s.afterDerive h).tcfg0 ∧
      t.tcfg1 = (s.afterDerive h).tcfg1 := by
  cases hp : pwmTiming s.cfg (s.operand 0) (s.operand 1) (s.derivedRate ch (ns / s.operand 0)) with
  | error r => exact ⟨_, exec_setConfig_of_fault hr hd hi hp, rfl, rfl⟩
  | ok v => exact ⟨_, exec_setConfig_of_timing (tcnt := v.1) (tcmp := v.2) hr hd hi hp, rfl, rfl⟩

/-- Settles O22: both commands leave the two registers as the derivation does. -/
theorem plainReadbackLosesTheHostsDivider : Obligations.PlainReadbackLosesTheHostsDivider := by
  intro s ch h hp hb hi
  obtain ⟨h0, h1⟩ := afterDerive_tcfg_zero hp hb h
  have hrate := derivedRate_of_plain hp hb ch
  refine ⟨⟨_, execPwmDeriveTin_of_is hi ch, h0, h1, hrate _⟩, hrate, fun hr hd => ?_⟩
  obtain ⟨t, ht, ht0, ht1⟩ := exec_setConfig_tcfg (ch := ch) hi hr hd
  exact ⟨t, ht, ht0.trans h0, ht1.trans h1⟩

end Sys2Proof.Machine
end

section
/-! How many events a command makes (70_reset_and_hazards.md R181). -/

namespace Sys2Proof.Machine

/-- A resolution makes at most one event before those that follow it (40_pwm.md R86, 41_mmc.md R120). -/
theorem resolveEvents_append_length (cache : ClkCache) (name : String) (c : Collaborator) (rest : List Event) :
    (resolveEvents cache name c ++ rest).length ≤ rest.length + 1 := by
  cases cache <;> simp [resolveEvents]

/-- Every command makes at most `maxEvents` events. -/
theorem exec_events_bounded {i : Instr} {s t : State} (h : exec i s = .next t) :
    ∃ events, t.trace = s.trace ++ events ∧ events.length ≤ maxEvents i := by
  have hnil : s.trace = s.trace ++ [] := (List.append_nil _).symm
  cases i with
  | pwmDeriveTin ch =>
    rcases execPwmDeriveTin_forms h with ⟨_, rfl⟩ | ⟨_, _, ⟨_, rfl⟩ | ⟨k, _, rfl⟩⟩
    · exact ⟨_, hnil, Nat.zero_le _⟩
    · exact ⟨_, rfl, by simp [maxEvents]⟩
    · exact ⟨_, rfl, deriveEvents_length s k⟩
  | pwmSetConfig ch =>
    rcases execPwmSetConfig_forms h with ⟨_, rfl⟩ | ⟨c, _, ⟨_, rfl⟩ | ⟨_, _, rfl⟩ |
      ⟨_, _, ⟨_, rfl⟩ | ⟨k, _, ⟨_, _, rfl⟩ | ⟨tcnt, tcmp, _, rfl⟩⟩⟩⟩
    · exact ⟨_, hnil, Nat.zero_le _⟩
    · exact ⟨_, hnil, Nat.zero_le _⟩
    · exact ⟨_, hnil, Nat.zero_le _⟩
    · exact ⟨_, rfl, by simp [maxEvents]⟩
    · exact ⟨_, rfl, (deriveEvents_length s k).trans (by simp [maxEvents])⟩
    · refine ⟨_, List.append_assoc _ _ _, ?_⟩
      rw [List.length_append]
      exact Nat.add_le_add_right (deriveEvents_length s k) 5
  | pwmSetEnable ch enable =>
    rcases execPwmSetEnable_forms h with ⟨_, rfl⟩ | ⟨_, _, rfl⟩
    · exact ⟨_, hnil, Nat.zero_le _⟩
    · exact ⟨_, rfl, le_rfl⟩
  | mmcGetBaseClock =>
    rcases execMmcGetBaseClock_forms h with ⟨_, rfl⟩ | ⟨_, _, rfl⟩
    · exact ⟨_, rfl, by simp [maxEvents]⟩
    · exact ⟨_, List.append_assoc _ _ _, resolveEvents_append_length _ _ _ _⟩
  | mmcSetClock =>
    rcases execMmcSetClock_forms h with ⟨_, rfl⟩ | ⟨_, _, rfl⟩
    · exact ⟨_, rfl, by simp [maxEvents]⟩
    · exact ⟨_, List.append_assoc _ _ _, resolveEvents_append_length _ _ _ _⟩
  | mmcProgramDelay =>
    obtain rfl := execMmcProgramDelay_forms h
    exact ⟨_, rfl, le_rfl⟩
  | mmcSelectClockMode boosted =>
    obtain rfl := execMmcSelectClockMode_forms h
    exact ⟨_, rfl, le_rfl⟩

/-- `MMC.PROGRAM_DELAY` and `MMC.SELECT_CLOCK_MODE` make one event, their register write. -/
theorem exec_mmcWrite_events {i : Instr} {s t : State} (h : exec i s = .next t)
    (hi : i = .mmcProgramDelay ∨ ∃ b, i = .mmcSelectClockMode b) : ∃ e, t.trace = s.trace ++ [e] := by
  rcases hi with rfl | ⟨b, rfl⟩
  · exact ⟨_, congrArg State.trace (execMmcProgramDelay_forms h)⟩
  · exact ⟨_, congrArg State.trace (execMmcSelectClockMode_forms h)⟩

/-- `PWM.SET_ENABLE` on an existing channel reads `tcon` and writes it. -/
theorem exec_setEnable_events {ch : Channel} {enable : Bool} {s t : State}
    (h : exec (.pwmSetEnable ch.val enable) s = .next t) : ∃ e e', t.trace = s.trace ++ [e, e'] := by
  have heq := (execPwmSetEnable_eq ch enable s).symm.trans h
  cases heq
  exact ⟨_, _, rfl⟩

/-- Settles O44: the bound of `exec_events_bounded`; where the list is exact, the events are known. -/
theorem commandsMakeBoundedEvents : Obligations.CommandsMakeBoundedEvents := by
  refine ⟨fun i s t h => ?_, fun w s t e hc hd h => ?_⟩
  · obtain ⟨events, htrace, hle⟩ := exec_events_bounded h
    refine ⟨events, htrace, hle, fun ch enable hi => ?_, fun hi => ?_⟩
    · subst hi
      obtain ⟨e, e', htwo⟩ := exec_setEnable_events h
      rw [List.append_cancel_left (htrace.symm.trans htwo)]
      rfl
    · obtain ⟨e, hone⟩ := exec_mmcWrite_events h hi
      rw [List.append_cancel_left (htrace.symm.trans hone)]
      rfl
  · rw [launch_of_illegal hc hd] at h
    cases h
    rfl

end Sys2Proof.Machine
end
